-- ==== Sys2Proof/Word.lean ====
section
/-! DEFINITION. Word.lean: the word types of JENC (spec/00_scope.md R5). -/

namespace Sys2Proof

/-- `u8`: a sample, a table entry, a byte of PIXMEM or OUTMEM, a micro-operation code (R5). -/
abbrev Byte := BitVec 8

/-- A 32-bit register or command word (10_state.md R21, 30_encoding.md R90). -/
abbrev Word := BitVec 32

/-- `s12`: a two's-complement coefficient of FBLK, QBLK, ZBLK or PRED (10_state.md R34, R37 to R39). -/
abbrev Coef := BitVec 12

end Sys2Proof
end

