-- ==== Sys2Proof/Config.lean ====
section
/-! DEFINITION. Config.lean: what the spec leaves to an implementation (spec/00_scope.md R4) and the
free values (spec/93_implementation_defined.md section 2). The free values have no body: nothing can be proved of them. -/

namespace Sys2Proof

/-- The two OPEN parameters of R4, each in the range that R4 gives it. They are the model's arguments:
every statement over all states holds for every choice of them (log entry 1, DESIGN CHOICE). -/
structure Params where
  /-- `PIX_BYTES`: capacity of PIXMEM in bytes. -/
  pixBytes : Nat
  /-- `OUT_BYTES`: capacity of OUTMEM in bytes. -/
  outBytes : Nat
  pixBytes_ge : 4 ≤ pixBytes
  pixBytes_le : pixBytes ≤ 2 ^ 32
  outBytes_le : outBytes ≤ 2 ^ 32 - 1
deriving DecidableEq, Repr

/-- The capacities that spec/95_test_vectors.md uses unless a vector says otherwise. -/
def Params.default : Params where
  pixBytes := 65536
  outBytes := 65536
  pixBytes_ge := by decide
  pixBytes_le := by decide
  outBytes_le := by decide

/-- FREE VALUE (U2, log entry 7): what the PIXMEM byte at an address holds when nothing has written it since power-on. -/
opaque Config.pixPowerOn : Nat → Byte

/-- FREE VALUE (U3, log entry 8): what the OUTMEM byte at an address holds when nothing has written it since power-on. -/
opaque Config.outPowerOn : Nat → Byte

/-- FREE VALUE (log entry 13): the quotient that QUANT would store for a zero divisor, which R205 says does not occur. -/
opaque Config.quotientByZero : Coef → Coef

end Sys2Proof
end

