-- ==== Sys2Proof/Syntax.lean ====
section
/-! DEFINITION. Syntax.lean: the two host commands and the 23 micro-operations (spec/30_encoding.md R91, R92),
the coded form of each, the host's registers (10_state.md R21) and the events of the environment
(20_memory.md R61, 70_reset_and_hazards.md R310). -/

namespace Sys2Proof

/-- One constructor per row of spec/opcode_table.json. None has an operand: a command takes its inputs from the
registers (R90), a micro-operation from SEQ and the datapath (R92). -/
inductive Instr where
  | nop
  | start
  | chk
  | init
  | qtgen
  | wsoi
  | wapp0
  | wdqt0
  | wdqt1
  | wsof0
  | wdht0
  | wdht1
  | wdht2
  | wdht3
  | wsos
  | weoi
  | csc
  | blkld
  | fdct
  | quant
  | zz
  | hdc
  | hac
  | flush
  | fin
deriving DecidableEq, Repr

/-- An encoded instruction. The two formats of R90 and R92 are two code spaces: format `C` is a whole 32-bit command
word, format `U` an 8-bit micro-operation code. A register is accessed as a whole word (20_memory.md R62), so a command
word has no byte order. -/
inductive Code where
  | command (w : Word)
  | uop (b : Byte)
deriving DecidableEq, Repr

/-- The names of the host-visible registers (10_state.md R21), as the host script writes them (30_encoding.md R113). -/
inductive HostReg where
  | cmd
  | status
  | width
  | height
  | quality
  | pixLen
  | outLen
  | err
  | errInfo
deriving DecidableEq, Repr

/-- What may happen next: a step of the CORE, one of the five host accesses of 20_memory.md R61, or RESET
(70_reset_and_hazards.md R310). A register offset is a byte offset below 0x1000 (R60). -/
inductive Event where
  | core
  | regWrite (off : BitVec 12) (v : Word)
  | regRead (off : BitVec 12)
  | pixWrite (a : Nat) (b : Byte)
  | pixRead (a : Nat)
  | outRead (a : Nat)
  | reset
deriving DecidableEq, Repr

/-- The value that a host read returns: a word for RegRead, a byte for PixRead and OutRead (20_memory.md R61). -/
inductive HostReturn where
  | word (v : Word)
  | byte (b : Byte)
deriving DecidableEq, Repr

end Sys2Proof
end

