-- ==== Sys2Proof/WellFormed.lean ====
section
/-! DEFINITION. WellFormed.lean: the well-formedness of instructions, codes and events. -/

namespace Sys2Proof

/-- Every instruction is well formed: no row of the opcode table has an operand (spec/30_encoding.md R90, R92). -/
def Instr.wellFormed : Instr → Bool
  | .nop | .start | .chk | .init | .qtgen | .wsoi | .wapp0 | .wdqt0 | .wdqt1 | .wsof0 | .wdht0 | .wdht1 | .wdht2
  | .wdht3 | .wsos | .weoi | .csc | .blkld | .fdct | .quant | .zz | .hdc | .hac | .flush | .fin => true

/-- A code that the spec's maps hold: a command word of R91, or a micro-operation code of R92. -/
def Code.wellFormed : Code → Bool
  | .command w => w.toNat ≤ 1
  | .uop b =>
    (0x01 ≤ b.toNat && b.toNat ≤ 0x03) || (0x10 ≤ b.toNat && b.toNat ≤ 0x1A) || (0x20 ≤ b.toNat && b.toNat ≤ 0x27)
      || b.toNat == 0x3F

/-- A register offset that the host primitives can express: a multiple of 4 (spec/20_memory.md R61, R63). -/
def offsetAligned (off : BitVec 12) : Bool := off.toNat % 4 == 0

/-- An event within the operand ranges of spec/20_memory.md R61. The machine is total on the others: R61 and U7 say what
an access outside the ranges does. -/
def Event.wellFormed (p : Params) : Event → Bool
  | .core | .reset => true
  | .regWrite off _ | .regRead off => offsetAligned off
  | .pixWrite a _ | .pixRead a => a < p.pixBytes
  | .outRead a => a < p.outBytes

end Sys2Proof
end

