-- ==== Sys2Proof/Decode.lean ====
section
/-! DEFINITION. Decode.lean: the decoder and the encoder of commands and micro-operations
(spec/30_encoding.md R90 to R93). -/

namespace Sys2Proof

/-- Why a code is no instruction (R93). -/
inductive DecodeReject where
  /-- Bits 31:8 (`ZERO`) of a command word are not 0 (R91). -/
  | zeroFieldNonZero
  /-- `OPC` of a command word is in 0x02 .. 0xFF (R91). -/
  | illegalOpcode
  /-- The byte is no micro-operation code of R92. -/
  | unusedMicroOpCode
deriving DecidableEq, Repr

/-- The field `OPC` of a command word, bits 7:0 (R90). -/
def commandOpc (w : Word) : Byte := w.extractLsb' 0 8

/-- The field `ZERO` of a command word, bits 31:8 (R90). -/
def commandZero (w : Word) : BitVec 24 := w.extractLsb' 8 24

/-- The command map of R91. -/
def decodeCommand (w : Word) : Except DecodeReject Instr :=
  if commandZero w ≠ 0 then .error .zeroFieldNonZero
  else if commandOpc w = 0x00 then .ok .nop
  else if commandOpc w = 0x01 then .ok .start
  else .error .illegalOpcode

/-- The micro-operation map of R92. -/
def decodeUop (b : Byte) : Except DecodeReject Instr :=
  if b = 0x01 then .ok .chk
  else if b = 0x02 then .ok .init
  else if b = 0x03 then .ok .qtgen
  else if b = 0x10 then .ok .wsoi
  else if b = 0x11 then .ok .wapp0
  else if b = 0x12 then .ok .wdqt0
  else if b = 0x13 then .ok .wdqt1
  else if b = 0x14 then .ok .wsof0
  else if b = 0x15 then .ok .wdht0
  else if b = 0x16 then .ok .wdht1
  else if b = 0x17 then .ok .wdht2
  else if b = 0x18 then .ok .wdht3
  else if b = 0x19 then .ok .wsos
  else if b = 0x1A then .ok .weoi
  else if b = 0x20 then .ok .csc
  else if b = 0x21 then .ok .blkld
  else if b = 0x22 then .ok .fdct
  else if b = 0x23 then .ok .quant
  else if b = 0x24 then .ok .zz
  else if b = 0x25 then .ok .hdc
  else if b = 0x26 then .ok .hac
  else if b = 0x27 then .ok .flush
  else if b = 0x3F then .ok .fin
  else .error .unusedMicroOpCode

/-- Decoding, total on every code of both formats. -/
def decode : Code → Except DecodeReject Instr
  | .command w => decodeCommand w
  | .uop b => decodeUop b

/-- The code of an instruction, from the maps of R91 and R92. -/
def encode : Instr → Code
  | .nop => .command 0x00000000
  | .start => .command 0x00000001
  | .chk => .uop 0x01
  | .init => .uop 0x02
  | .qtgen => .uop 0x03
  | .wsoi => .uop 0x10
  | .wapp0 => .uop 0x11
  | .wdqt0 => .uop 0x12
  | .wdqt1 => .uop 0x13
  | .wsof0 => .uop 0x14
  | .wdht0 => .uop 0x15
  | .wdht1 => .uop 0x16
  | .wdht2 => .uop 0x17
  | .wdht3 => .uop 0x18
  | .wsos => .uop 0x19
  | .weoi => .uop 0x1A
  | .csc => .uop 0x20
  | .blkld => .uop 0x21
  | .fdct => .uop 0x22
  | .quant => .uop 0x23
  | .zz => .uop 0x24
  | .hdc => .uop 0x25
  | .hac => .uop 0x26
  | .flush => .uop 0x27
  | .fin => .uop 0x3F

/-- The byte by which SEQ.UOP, STATUS.UOP and ERR.STAGE name an instruction: its micro-operation code (R92), and 0x00,
"no micro-operation to name", for a host command. -/
def stageCode (i : Instr) : Byte :=
  match encode i with
  | .uop b => b
  | .command _ => 0x00

/-- An instruction's bits as spec/opcode_table.json numbers them: a row of one byte is a micro-operation code, a row of
four bytes a command word. -/
def tableCode (nbits w : Nat) : Option Code :=
  if nbits = 8 then some (.uop (BitVec.ofNat 8 w))
  else if nbits = 32 then some (.command (BitVec.ofNat 32 w))
  else none

/-- The instruction that the decoder reads from the bits `w` of a row of `nbits` bits. -/
def decodeTableWord (nbits w : Nat) : Option Instr :=
  match tableCode nbits w with
  | none => none
  | some c =>
    match decode c with
    | .ok i => some i
    | .error _ => none

end Sys2Proof
end

