-- ==== Sys2Proof/Machine/State.lean ====
section
/-! DEFINITION. Machine/State.lean: the state of JENC (spec/10_state.md R20 to R46), its value after power-on reset, and
the reasons a step can stop. -/

namespace Sys2Proof.Machine

/-- The flag STATE (10_state.md R33). -/
inductive Phase where
  | idle
  | busy
  | done
  | error
deriving DecidableEq, Repr

/-- The errors of 60_exceptions.md R281. `unsupportedFormat` is reserved and never raised (R283). -/
inductive ErrorCode where
  | invalidArguments
  | unsupportedFormat
  | symbolOverflow
  | encodingError
deriving DecidableEq, Repr

/-- PIXMEM or OUTMEM: the bytes written since power-on, by address, in rising order. An unlisted address holds no value
of the model's: reading it gives the free value of Config (log entries 7 and 8). -/
abbrev Memory := List Host.Cell

/-- MCUBUF: the samples of one MCU, `[row][column]` (10_state.md R35). -/
structure McuBuf where
  y : Vector (Vector Byte 16) 16
  cb : Vector (Vector Byte 8) 8
  cr : Vector (Vector Byte 8) 8
deriving DecidableEq, Repr

/-- The complete state (10_state.md R20), and three fields of the model's own: `params`, `sched` and `reads`. -/
structure State where
  /-- MODEL's own: the OPEN parameters of 00_scope.md R4; no step changes them (log entry 1). -/
  params : Params
  /-- STATE (R33). -/
  phase : Phase
  /-- BADCMD (R33). -/
  badcmd : Bool
  /-- WIDTH.W (R24). -/
  width : BitVec 16
  /-- HEIGHT.H (R25). -/
  height : BitVec 16
  /-- QUALITY.Q (R26). -/
  quality : BitVec 8
  /-- PIX_LEN (R27). -/
  pixLen : Word
  /-- ERR (R29). -/
  err : Word
  /-- ERR_INFO (R30). -/
  errInfo : Word
  /-- SEQ.UOP (R32). -/
  uop : Byte
  /-- SEQ.MX (R32). -/
  mx : BitVec 12
  /-- SEQ.MY (R32). -/
  my : BitVec 12
  /-- SEQ.BI, 0 .. 5 (R32; log entry 12). -/
  bi : Fin 6
  /-- PRED[0..2] (R34). -/
  pred : Vector Coef 3
  /-- BITACC (R34). -/
  bitacc : Byte
  /-- BITCNT, 0 .. 7 (R34; log entry 9). -/
  bitcnt : Fin 8
  /-- WP (R34). -/
  wp : Word
  /-- MCUBUF (R35). -/
  mcu : McuBuf
  /-- SBLK (R36). -/
  sblk : Vector Byte 64
  /-- FBLK (R37). -/
  fblk : Vector Coef 64
  /-- QBLK (R38). -/
  qblk : Vector Coef 64
  /-- ZBLK (R39). -/
  zblk : Vector Coef 64
  /-- QT[0..1][0..63] (R40). -/
  qt : Vector (Vector Byte 64) 2
  /-- PIXMEM (R42). -/
  pixmem : Memory
  /-- OUTMEM (R43). -/
  outmem : Memory
  /-- MODEL's own: the events still to happen, in their order (20_memory.md R70; log entry 2). -/
  sched : List Event
  /-- MODEL's own: the values that host reads returned, newest first (20_memory.md R61; log entry 4). -/
  reads : List HostReturn
deriving DecidableEq, Repr

/-- Why the machine stops with a fault. Each fault is raised only in a state that no run reaches, and each is SAFE: the
model stops where the spec gives the machine no behaviour. -/
inductive Fault where
  /-- CSC would fetch a pixel byte that does not exist: the image is empty, or the fetch lies outside PIXMEM. After CHK every
  fetch is inside (20_memory.md R68). Raised by CSC; safe (log entry 10). -/
  | pixFetchOutside
  /-- HAC ended block 5 with MX or MY outside the image's MCUs: 40_driver.md R134 has no row for it. Raised by HAC; safe
  (log entry 11). -/
  | sequencerOutside
deriving DecidableEq, Repr

/-- Why the machine gives no meaning to what it should run. -/
inductive Refusal where
  /-- exec has no meaning for the instruction yet. Raised by exec's arms only; safe. -/
  | notModelled (mnemonic : String)
  /-- SEQ.UOP holds a code that is no micro-operation while STATE is BUSY: it "cannot occur; no behaviour defined and none
  needed" (93_implementation_defined.md U11). Raised by the fetch; safe (log entry 14). -/
  | unusedMicroOp
deriving DecidableEq, Repr

/-- The outcome of a step of this machine. -/
abbrev Outcome := Host.Outcome State Fault Refusal

/-- The state right after power-on reset (10_state.md R45), for given capacities. The block buffers and QT are
"unspecified" there: the values below are the model's (log entries 5 and 6, DESIGN CHOICE, unsafe). -/
def State.resetWith (p : Params) : State where
  params := p
  phase := .idle
  badcmd := false
  width := 0
  height := 0
  quality := 70
  pixLen := 0
  err := 0
  errInfo := 0
  uop := 0
  mx := 0
  my := 0
  bi := 0
  pred := Vector.replicate 3 0
  bitacc := 0
  bitcnt := 0
  wp := 0
  mcu :=
    { y := Vector.replicate 16 (Vector.replicate 16 0)
      cb := Vector.replicate 8 (Vector.replicate 8 0)
      cr := Vector.replicate 8 (Vector.replicate 8 0) }
  sblk := Vector.replicate 64 0
  fblk := Vector.replicate 64 0
  qblk := Vector.replicate 64 0
  zblk := Vector.replicate 64 0
  qt := Vector.replicate 2 (Vector.replicate 64 1)
  pixmem := []
  outmem := []
  sched := []
  reads := []

/-- The state right after power-on reset, with the capacities of spec/95_test_vectors.md (log entry 1). -/
def State.reset : State := State.resetWith Params.default

end Sys2Proof.Machine
end

