-- ==== Sys2Proof/Machine/Arith.lean ====
section
/-! DEFINITION. Machine/Arith.lean: the arithmetic primitives of spec/00_scope.md R5 and R7 and the value coding of
spec/30_encoding.md R105 and spec/46_entropy.md R220. -/

namespace Sys2Proof.Machine

/-- `asr(v, n) = floor(v / 2^n)` (R7); `/` on `Int` by a positive divisor is the floor. -/
def asr (v : Int) (n : Nat) : Int := v / 2 ^ n

/-- `clamp(v, lo, hi)` (R7). -/
def clamp (v lo hi : Nat) : Nat := min (max v lo) hi

/-- `ceil_div(a, b)` (R7). -/
def ceilDiv (a b : Nat) : Nat := (a + b - 1) / b

/-- `bitlen(m)`: the number of bits of `m` without leading zeros (R7). -/
def bitlen (m : Nat) : Nat := if m = 0 then 0 else Nat.log2 m + 1

/-- The sum of the eight terms `f 0 .. f 7`: every sum of the spec's pseudocode is over 0 .. 7. -/
def sum8 (f : Fin 8 → Int) : Int := f 0 + f 1 + f 2 + f 3 + f 4 + f 5 + f 6 + f 7

/-- The `u8` that stores an integer in 0 .. 255 (R5). -/
def toByte (v : Int) : Byte := BitVec.ofInt 8 v

/-- The `s12` that stores an integer in -2048 .. 2047 (R5, log entry 21). -/
def toCoef (v : Int) : Coef := BitVec.ofInt 12 v

/-- `cat(v) = bitlen(abs(v))` (46_entropy.md R220). -/
def cat (v : Int) : Nat := bitlen v.natAbs

/-- `amp(v, s)`: the amplitude bits of `v` in category `s`, as an unsigned number (30_encoding.md R105). -/
def amp (v : Int) (s : Nat) : Nat := if 0 < v then v.toNat else (v + 2 ^ s - 1).toNat

/-- What R105 says a decoder recovers from `(s, a)`: `a` if `a >= 2^(s-1)`, else `a - 2^s + 1`. -/
def ampDecode (s a : Nat) : Int := if 2 ^ (s - 1) ≤ a then a else (a : Int) - 2 ^ s + 1

end Sys2Proof.Machine
end

