-- ==== Sys2Proof/Machine/Tables.lean ====
section
/-! DEFINITION. Machine/Tables.lean: the constants of JENC (spec/10_state.md R41): the zig-zag table and its inverse,
the DCT matrix, the base quantization tables, the Huffman specifications with the codes they give, and the constant
bytes of the header segments. -/

namespace Sys2Proof.Machine

/-- `ZZ[k]`: the natural index of the coefficient at zig-zag position `k` (45_zigzag.md R215). -/
def zzTable : Vector (Fin 64) 64 :=
  #v[
    0, 1, 8, 16, 9, 2, 3, 10, 17, 24, 32, 25, 18, 11, 4, 5,
    12, 19, 26, 33, 40, 48, 41, 34, 27, 20, 13, 6, 7, 14, 21, 28,
    35, 42, 49, 56, 57, 50, 43, 36, 29, 22, 15, 23, 30, 37, 44, 51,
    58, 59, 52, 45, 38, 31, 39, 46, 53, 60, 61, 54, 47, 55, 62, 63]

/-- `ZZINV[n]`: the zig-zag position of natural index `n` (45_zigzag.md R217). -/
def zzInvTable : Vector (Fin 64) 64 :=
  #v[
    0, 1, 5, 6, 14, 15, 27, 28,
    2, 4, 7, 13, 16, 26, 29, 42,
    3, 8, 12, 17, 25, 30, 41, 43,
    9, 11, 18, 24, 31, 40, 44, 53,
    10, 19, 23, 32, 39, 45, 52, 54,
    20, 22, 33, 38, 46, 51, 55, 60,
    21, 34, 37, 47, 50, 56, 59, 61,
    35, 36, 48, 49, 57, 58, 62, 63]

/-- `DCTM[u][x]` (43_fdct.md R185). -/
def dctTable : Vector (Vector Int 8) 8 :=
  #v[
    #v[5793, 5793, 5793, 5793, 5793, 5793, 5793, 5793],
    #v[8035, 6811, 4551, 1598, -1598, -4551, -6811, -8035],
    #v[7568, 3135, -3135, -7568, -7568, -3135, 3135, 7568],
    #v[6811, -1598, -8035, -4551, 4551, 8035, 1598, -6811],
    #v[5793, -5793, -5793, 5793, 5793, -5793, -5793, 5793],
    #v[4551, -8035, 1598, 6811, -6811, -1598, 8035, -4551],
    #v[3135, -7568, 7568, -3135, -3135, 7568, -7568, 3135],
    #v[1598, -4551, 6811, -8035, 8035, -6811, 4551, -1598]]

/-- `BASE[0]`, luma, natural order (44_quantizer.md R203). -/
def baseLuma : Vector Nat 64 :=
  #v[
    16, 11, 10, 16, 24, 40, 51, 61,
    12, 12, 14, 19, 26, 58, 60, 55,
    14, 13, 16, 24, 40, 57, 69, 56,
    14, 17, 22, 29, 51, 87, 80, 62,
    18, 22, 37, 56, 68, 109, 103, 77,
    24, 35, 55, 64, 81, 104, 113, 92,
    49, 64, 78, 87, 103, 121, 120, 101,
    72, 92, 95, 98, 112, 100, 103, 99]

/-- `BASE[1]`, chroma, natural order (44_quantizer.md R203). -/
def baseChroma : Vector Nat 64 :=
  #v[
    17, 18, 24, 47, 99, 99, 99, 99,
    18, 21, 26, 66, 99, 99, 99, 99,
    24, 26, 56, 99, 99, 99, 99, 99,
    47, 66, 99, 99, 99, 99, 99, 99,
    99, 99, 99, 99, 99, 99, 99, 99,
    99, 99, 99, 99, 99, 99, 99, 99,
    99, 99, 99, 99, 99, 99, 99, 99,
    99, 99, 99, 99, 99, 99, 99, 99]

/-- `BASEZZ[t][k] = BASE[t][ZZ[k]]` (44_quantizer.md R203). -/
def baseZZ (t : Fin 2) (k : Fin 64) : Nat :=
  if t = 0 then baseLuma[zzTable[k]] else baseChroma[zzTable[k]]

/-- A Huffman table specification: how many codes have each length 1 .. 16, and the symbols in order of increasing code
(30_encoding.md R101, R106). -/
structure HuffSpec where
  bits : List Nat
  vals : List Nat
deriving DecidableEq, Repr

/-- One line of a code table: the symbol, its code as a number, and the code's length (30_encoding.md R106, R111). -/
structure HuffEntry where
  sym : Nat
  code : Nat
  len : Nat
deriving DecidableEq, Repr

/-- DC table 0, luma (30_encoding.md R107). -/
def dcSpec0 : HuffSpec where
  bits := [0, 1, 5, 1, 1, 1, 1, 1, 1, 0, 0, 0, 0, 0, 0, 0]
  vals :=
    [
      0x00, 0x01, 0x02, 0x03, 0x04, 0x05, 0x06, 0x07, 0x08, 0x09, 0x0A, 0x0B]

/-- AC table 0, luma (30_encoding.md R108). -/
def acSpec0 : HuffSpec where
  bits := [0, 2, 1, 3, 3, 2, 4, 3, 5, 5, 4, 4, 0, 0, 1, 125]
  vals :=
    [
      0x01, 0x02, 0x03, 0x00, 0x04, 0x11, 0x05, 0x12, 0x21, 0x31, 0x41, 0x06, 0x13, 0x51, 0x61, 0x07,
      0x22, 0x71, 0x14, 0x32, 0x81, 0x91, 0xA1, 0x08, 0x23, 0x42, 0xB1, 0xC1, 0x15, 0x52, 0xD1, 0xF0,
      0x24, 0x33, 0x62, 0x72, 0x82, 0x09, 0x0A, 0x16, 0x17, 0x18, 0x19, 0x1A, 0x25, 0x26, 0x27, 0x28,
      0x29, 0x2A, 0x34, 0x35, 0x36, 0x37, 0x38, 0x39, 0x3A, 0x43, 0x44, 0x45, 0x46, 0x47, 0x48, 0x49,
      0x4A, 0x53, 0x54, 0x55, 0x56, 0x57, 0x58, 0x59, 0x5A, 0x63, 0x64, 0x65, 0x66, 0x67, 0x68, 0x69,
      0x6A, 0x73, 0x74, 0x75, 0x76, 0x77, 0x78, 0x79, 0x7A, 0x83, 0x84, 0x85, 0x86, 0x87, 0x88, 0x89,
      0x8A, 0x92, 0x93, 0x94, 0x95, 0x96, 0x97, 0x98, 0x99, 0x9A, 0xA2, 0xA3, 0xA4, 0xA5, 0xA6, 0xA7,
      0xA8, 0xA9, 0xAA, 0xB2, 0xB3, 0xB4, 0xB5, 0xB6, 0xB7, 0xB8, 0xB9, 0xBA, 0xC2, 0xC3, 0xC4, 0xC5,
      0xC6, 0xC7, 0xC8, 0xC9, 0xCA, 0xD2, 0xD3, 0xD4, 0xD5, 0xD6, 0xD7, 0xD8, 0xD9, 0xDA, 0xE1, 0xE2,
      0xE3, 0xE4, 0xE5, 0xE6, 0xE7, 0xE8, 0xE9, 0xEA, 0xF1, 0xF2, 0xF3, 0xF4, 0xF5, 0xF6, 0xF7, 0xF8,
      0xF9, 0xFA]

/-- DC table 1, chroma (30_encoding.md R109). -/
def dcSpec1 : HuffSpec where
  bits := [0, 3, 1, 1, 1, 1, 1, 1, 1, 1, 1, 0, 0, 0, 0, 0]
  vals :=
    [
      0x00, 0x01, 0x02, 0x03, 0x04, 0x05, 0x06, 0x07, 0x08, 0x09, 0x0A, 0x0B]

/-- AC table 1, chroma (30_encoding.md R110). -/
def acSpec1 : HuffSpec where
  bits := [0, 2, 1, 2, 4, 4, 3, 4, 7, 5, 4, 4, 0, 1, 2, 119]
  vals :=
    [
      0x00, 0x01, 0x02, 0x03, 0x11, 0x04, 0x05, 0x21, 0x31, 0x06, 0x12, 0x41, 0x51, 0x07, 0x61, 0x71,
      0x13, 0x22, 0x32, 0x81, 0x08, 0x14, 0x42, 0x91, 0xA1, 0xB1, 0xC1, 0x09, 0x23, 0x33, 0x52, 0xF0,
      0x15, 0x62, 0x72, 0xD1, 0x0A, 0x16, 0x24, 0x34, 0xE1, 0x25, 0xF1, 0x17, 0x18, 0x19, 0x1A, 0x26,
      0x27, 0x28, 0x29, 0x2A, 0x35, 0x36, 0x37, 0x38, 0x39, 0x3A, 0x43, 0x44, 0x45, 0x46, 0x47, 0x48,
      0x49, 0x4A, 0x53, 0x54, 0x55, 0x56, 0x57, 0x58, 0x59, 0x5A, 0x63, 0x64, 0x65, 0x66, 0x67, 0x68,
      0x69, 0x6A, 0x73, 0x74, 0x75, 0x76, 0x77, 0x78, 0x79, 0x7A, 0x82, 0x83, 0x84, 0x85, 0x86, 0x87,
      0x88, 0x89, 0x8A, 0x92, 0x93, 0x94, 0x95, 0x96, 0x97, 0x98, 0x99, 0x9A, 0xA2, 0xA3, 0xA4, 0xA5,
      0xA6, 0xA7, 0xA8, 0xA9, 0xAA, 0xB2, 0xB3, 0xB4, 0xB5, 0xB6, 0xB7, 0xB8, 0xB9, 0xBA, 0xC2, 0xC3,
      0xC4, 0xC5, 0xC6, 0xC7, 0xC8, 0xC9, 0xCA, 0xD2, 0xD3, 0xD4, 0xD5, 0xD6, 0xD7, 0xD8, 0xD9, 0xDA,
      0xE2, 0xE3, 0xE4, 0xE5, 0xE6, 0xE7, 0xE8, 0xE9, 0xEA, 0xF2, 0xF3, 0xF4, 0xF5, 0xF6, 0xF7, 0xF8,
      0xF9, 0xFA]

/-- The class of a Huffman table: DC is 0, AC is 1 (30_encoding.md R101, 46_entropy.md R222). -/
inductive HuffClass where
  | dc
  | ac
deriving DecidableEq, Repr

/-- The specification of the table of class `cls` and id `t` (30_encoding.md R107 to R110). -/
def huffSpec (cls : HuffClass) (t : Fin 2) : HuffSpec :=
  match cls with
  | .dc => if t = 0 then dcSpec0 else dcSpec1
  | .ac => if t = 0 then acSpec0 else acSpec1

/-- Consecutive codes of one length for the given symbols, from `code` on (30_encoding.md R106, the inner loop). -/
def codesOfLength (len : Nat) : Nat → List Nat → List HuffEntry
  | _, [] => []
  | code, v :: vs => { sym := v, code := code, len := len } :: codesOfLength len (code + 1) vs

/-- Canonical code assignment (30_encoding.md R106): `len` is the next length, `code` the next code. -/
def assignCodes : (len code : Nat) → (bits vals : List Nat) → List HuffEntry
  | _, _, [], _ => []
  | len, code, n :: bits, vals =>
    codesOfLength len code (vals.take n) ++ assignCodes (len + 1) ((code + n) * 2) bits (vals.drop n)

/-- The code table of a specification (30_encoding.md R106). -/
def HuffSpec.codes (h : HuffSpec) : List HuffEntry := assignCodes 1 0 h.bits h.vals

/-- The entry for a symbol, if it has a code (46_entropy.md R222). -/
def huffLookup (cls : HuffClass) (t : Fin 2) (sym : Nat) : Option HuffEntry :=
  (huffSpec cls t).codes.find? fun e => e.sym == sym

/-- SOI (47_bitstream.md R250). -/
def soiBytes : List Byte := [0xFF, 0xD8]

/-- The JFIF APP0 segment (30_encoding.md R98, 47_bitstream.md R251). -/
def app0Bytes : List Byte :=
  [0xFF, 0xE0, 0x00, 0x10, 0x4A, 0x46, 0x49, 0x46, 0x00, 0x01, 0x01, 0x00, 0x00, 0x01, 0x00, 0x01, 0x00, 0x00]

/-- The SOS header (30_encoding.md R102, 47_bitstream.md R259). -/
def sosBytes : List Byte :=
  [0xFF, 0xDA, 0x00, 0x0C, 0x03, 0x01, 0x00, 0x02, 0x11, 0x03, 0x11, 0x00, 0x3F, 0x00]

/-- EOI (47_bitstream.md R260). -/
def eoiBytes : List Byte := [0xFF, 0xD9]

/-- The two bytes of a 16-bit value, most significant first (20_memory.md R62, 47_bitstream.md R249). -/
def be16 (v : BitVec 16) : List Byte := [v.extractLsb' 8 8, v.extractLsb' 0 8]

/-- A DQT segment for table `t` with the given entries (30_encoding.md R99). -/
def dqtBytes (t : Fin 2) (entries : List Byte) : List Byte :=
  [0xFF, 0xDB] ++ be16 67 ++ [BitVec.ofNat 8 t.val] ++ entries

/-- The SOF0 segment for the given dimensions; height comes before width (30_encoding.md R100). -/
def sof0Bytes (w h : BitVec 16) : List Byte :=
  [0xFF, 0xC0] ++ be16 17 ++ [0x08] ++ be16 h ++ be16 w ++
    [0x03, 0x01, 0x22, 0x00, 0x02, 0x11, 0x01, 0x03, 0x11, 0x01]

/-- The byte `Tc*16 + Th` of a DHT segment (30_encoding.md R101). -/
def dhtSelector (cls : HuffClass) (t : Fin 2) : Byte :=
  match cls with
  | .dc => BitVec.ofNat 8 t.val
  | .ac => BitVec.ofNat 8 (16 + t.val)

/-- A DHT segment (30_encoding.md R101). -/
def dhtBytes (cls : HuffClass) (t : Fin 2) : List Byte :=
  let h := huffSpec cls t
  [0xFF, 0xC4] ++ be16 (BitVec.ofNat 16 (19 + h.vals.length)) ++ [dhtSelector cls t] ++
    h.bits.map (BitVec.ofNat 8) ++ h.vals.map (BitVec.ofNat 8)

end Sys2Proof.Machine
end

