-- ==== Sys2Proof/Machine/Ops.lean ====
section
/-! DEFINITION. Machine/Ops.lean: the shared operations over memory and state: memory reads and writes, the bitstream
writer's subroutines (spec/47_bitstream.md section 1), taking an error (spec/60_exceptions.md R288), leaving it by START
(R289), refusing a command (spec/40_driver.md R132) and RESET (spec/70_reset_and_hazards.md R310). -/

namespace Sys2Proof.Machine

/-- The byte listed for an address, if any. -/
def Memory.read (m : Memory) (a : Nat) : Option Byte :=
  match m with
  | [] => none
  | (k, b) :: rest => if k = a then some b else Memory.read rest a

/-- Store one byte: the list keeps its addresses strictly rising. -/
def Memory.write (m : Memory) (a : Nat) (b : Byte) : Memory :=
  match m with
  | [] => [(a, b)]
  | (k, c) :: rest =>
    if a < k then (a, b) :: (k, c) :: rest
    else if a = k then (a, b) :: rest
    else (k, c) :: Memory.write rest a b

/-- The canonical form: addresses strictly rising. An unlisted address holds no value, so no listed byte equals it. -/
def Memory.wf : Memory → Bool
  | [] => true
  | [_] => true
  | (a, _) :: (b, y) :: rest => a < b && Memory.wf ((b, y) :: rest)

/-- Store consecutive bytes from an address on. -/
def Memory.writeList (m : Memory) (a : Nat) : List Byte → Memory
  | [] => m
  | b :: bs => Memory.writeList (m.write a b) (a + 1) bs

/-- `MemRead(PIXMEM, a, 1)` (00_scope.md R6): the byte written last, or the free value of an unwritten byte (U2). -/
def pixByte (s : State) (a : Nat) : Byte := (s.pixmem.read a).getD (Config.pixPowerOn a)

/-- `MemRead(OUTMEM, a, 1)` (00_scope.md R6): the byte written last, or the free value of an unwritten byte (U3). -/
def outByte (s : State) (a : Nat) : Byte := (s.outmem.read a).getD (Config.outPowerOn a)

/-- What a micro-operation, or a subroutine of one, comes to: it completes, or it raises an error and the writes made
before the `raise` stand (00_scope.md R6). -/
inductive Attempt where
  | done (s : State)
  | raised (code : ErrorCode) (sub : BitVec 4) (s : State)
deriving DecidableEq, Repr

/-- Sequencing: what follows a `raise` is not executed (00_scope.md R6). -/
def Attempt.andThen (r : Attempt) (f : State → Attempt) : Attempt :=
  match r with
  | .done s => f s
  | .raised c sub s => .raised c sub s

/-- `SEQ.UOP <- u` (00_scope.md R6, 10_state.md R32). -/
def State.setUop (s : State) (i : Instr) : State := { s with uop := stageCode i }

/-- The whole of SEQ (10_state.md R32). -/
def State.setSeq (s : State) (i : Instr) (mx my : BitVec 12) (bi : Fin 6) : State :=
  { s with uop := stageCode i, mx := mx, my := my, bi := bi }

/-- BITACC and BITCNT (10_state.md R34). -/
def State.setBits (s : State) (acc : Byte) (cnt : Fin 8) : State := { s with bitacc := acc, bitcnt := cnt }

/-- Append one byte to OUTMEM at WP (10_state.md R43). -/
def State.appendByte (s : State) (b : Byte) : State :=
  { s with outmem := s.outmem.write s.wp.toNat b, wp := s.wp + 1 }

/-- `EmitByte(b)` (47_bitstream.md R245): OUTPUT_OVERFLOW when `WP >= OUT_BYTES`. -/
def emitByte (b : Byte) (s : State) : Attempt :=
  if s.params.outBytes ≤ s.wp.toNat then .raised .encodingError 1 s else .done (s.appendByte b)

/-- One EmitByte after another, as the marker micro-operations list them (47_bitstream.md section 3). -/
def emitBytes : List Byte → State → Attempt
  | [], s => .done s
  | b :: bs, s => (emitByte b s).andThen (emitBytes bs)

/-- `EmitBE16(v)` (47_bitstream.md R249). -/
def emitBE16 (v : BitVec 16) (s : State) : Attempt := emitBytes (be16 v) s

/-- A completed byte and, after 0xFF, the stuffed 0x00; then the accumulator is empty (47_bitstream.md R246,
30_encoding.md R112). -/
def emitStuffed (b : Byte) (s : State) : Attempt :=
  ((emitByte b s).andThen fun s1 => if b = 0xFF then emitByte 0x00 s1 else .done s1).andThen fun s2 =>
    .done (s2.setBits 0 0)

/-- One turn of PutBits' loop (47_bitstream.md R246). Where the eighth bit completes a byte, BITCNT is 8, which its
range 0 .. 7 (10_state.md R34) holds as 0 until EmitByte returns (log entry 9). -/
def putBit (bit : Bool) (s : State) : Attempt :=
  let acc : Byte := BitVec.ofNat 8 (s.bitacc.toNat * 2 + bit.toNat)
  if s.bitcnt.val + 1 = 8 then emitStuffed acc (s.setBits acc 0)
  else .done (s.setBits acc (Fin.ofNat 8 (s.bitcnt.val + 1)))

/-- `PutBits(v, n)`: the `n` bits of `v`, most significant first (47_bitstream.md R246). -/
def putBits (v : Nat) : Nat → State → Attempt
  | 0, s => .done s
  | n + 1, s => (putBit (v.testBit n) s).andThen (putBits v n)

/-- The sub-cause of a symbol without a code: HDC's is 1, HAC's is 2 (60_exceptions.md R284). -/
def overflowSub : HuffClass → BitVec 4
  | .dc => 1
  | .ac => 2

/-- `PutHuff(t, cls, sym)` (46_entropy.md R222). A symbol without a code is SymbolOverflow (30_encoding.md R93, U13; log
entry 16); no caller passes one. -/
def putHuff (t : Fin 2) (cls : HuffClass) (sym : Nat) (s : State) : Attempt :=
  match huffLookup cls t sym with
  | some e => putBits e.code e.len s
  | none => .raised .symbolOverflow (overflowSub cls) s

/-- ERR.CODE of an error (60_exceptions.md R281). -/
def errorCodeBits : ErrorCode → BitVec 4
  | .invalidArguments => 1
  | .unsupportedFormat => 2
  | .symbolOverflow => 3
  | .encodingError => 4

/-- `comp(BI)` (40_driver.md R140). -/
def compOf (bi : Fin 6) : Fin 3 := if bi.val < 4 then 0 else if bi.val = 4 then 1 else 2

/-- `tab(BI)` (40_driver.md R140). -/
def tabOf (bi : Fin 6) : Fin 2 := if bi.val < 4 then 0 else 1

/-- The set `in_block` of 60_exceptions.md R288. -/
def inBlock : Instr → Bool
  | .csc | .blkld | .fdct | .quant | .zz | .hdc | .hac => true
  | .nop | .start | .chk | .init | .qtgen | .wsoi | .wapp0 | .wdqt0 | .wdqt1 | .wsof0 | .wdht0 | .wdht1 | .wdht2
  | .wdht3 | .wsos | .weoi | .flush | .fin => false

/-- The ERR word: BLK 20:18, COMP 17:16, STAGE 15:8, SUB 7:4, CODE 3:0, the rest 0 (10_state.md R29). -/
def errWord (code sub : BitVec 4) (stage : Byte) (comp : BitVec 2) (blk : BitVec 3) : Word :=
  (0 : BitVec 11) ++ blk ++ comp ++ stage ++ sub ++ code

/-- The ERR_INFO word: MY 27:16, MX 11:0, the rest 0 (10_state.md R30). -/
def errInfoWord (mx my : BitVec 12) : Word := (0 : BitVec 4) ++ my ++ (0 : BitVec 4) ++ mx

/-- TAKING AN ERROR (60_exceptions.md R288): the record is written, STATE becomes ERROR, and nothing else changes. -/
def enterError (i : Instr) (code : ErrorCode) (sub : BitVec 4) (s : State) : State :=
  { s with
    err :=
      errWord (errorCodeBits code) sub (stageCode i)
        (if inBlock i then BitVec.ofNat 2 (compOf s.bi).val else 3)
        (if inBlock i then BitVec.ofNat 3 s.bi.val else 7)
    errInfo := if inBlock i then errInfoWord s.mx s.my else 0
    phase := .error }

/-- AN ACCEPTED START (40_driver.md R131), which is also the only way out of ERROR but RESET (60_exceptions.md R289). -/
def acceptStart (s : State) : State :=
  { s with phase := .busy, badcmd := false, err := 0, errInfo := 0, uop := stageCode .chk }

/-- A refused command (40_driver.md R132). -/
def refuseCommand (s : State) : State := { s with badcmd := true }

/-- RESET (70_reset_and_hazards.md R310): MCUBUF, SBLK, FBLK, QBLK, ZBLK, QT, PIXMEM and OUTMEM are not touched. -/
def assertReset (s : State) : State :=
  { s with
    phase := .idle
    badcmd := false
    uop := 0
    mx := 0
    my := 0
    bi := 0
    width := 0
    height := 0
    quality := 70
    pixLen := 0
    err := 0
    errInfo := 0
    pred := Vector.replicate 3 0
    bitacc := 0
    bitcnt := 0
    wp := 0 }

end Sys2Proof.Machine
end

