-- ==== Sys2Proof/Machine/Operands.lean ====
section
/-! DEFINITION. Machine/Operands.lean: where micro-operations find their operands: the image geometry
(spec/40_driver.md R139), PixFetch (spec/20_memory.md R68), the blocks of MCUBUF (spec/42_block_splitter.md R175) and
the divisors of QT (spec/44_quantizer.md R204). -/

namespace Sys2Proof.Machine

/-- `MCUW` (40_driver.md R139). -/
def mcuW (s : State) : Nat := ceilDiv s.width.toNat 16

/-- `MCUH` (40_driver.md R139). -/
def mcuH (s : State) : Nat := ceilDiv s.height.toNat 16

/-- `CW` (40_driver.md R139). -/
def chromaW (s : State) : Nat := ceilDiv s.width.toNat 2

/-- `CH` (40_driver.md R139). -/
def chromaH (s : State) : Nat := ceilDiv s.height.toNat 2

/-- `need = W * H * 4`, exact (40_driver.md R135). -/
def bytesNeeded (s : State) : Nat := s.width.toNat * s.height.toNat * 4

/-- The address of the R byte that `PixFetch(x, y)` reads: the coordinates are clamped to the image (20_memory.md R68). -/
def pixAddr (s : State) (x y : Nat) : Nat :=
  (min y (s.height.toNat - 1) * s.width.toNat + min x (s.width.toNat - 1)) * 4

/-- The three channels of a pixel; alpha is never read (20_memory.md R68, 41_color.md R160). -/
structure Rgb where
  r : Byte
  g : Byte
  b : Byte
deriving DecidableEq, Repr

/-- `PixFetch(x, y)` (20_memory.md R68). -/
def pixFetch (s : State) (x y : Nat) : Rgb where
  r := pixByte s (pixAddr s x y)
  g := pixByte s (pixAddr s x y + 1)
  b := pixByte s (pixAddr s x y + 2)

/-- Every byte that CSC fetches for its MCU exists: the image is not empty, and the last byte of the MCU's bottom right
pixel lies inside PIXMEM (20_memory.md R68; log entry 10). -/
def mcuFetchInside (s : State) : Bool :=
  s.width != 0 && s.height != 0 &&
    decide (pixAddr s (16 * s.mx.toNat + 15) (16 * s.my.toNat + 15) + 2 < s.params.pixBytes)

/-- Sample `[y][x]` of block `bi` of MCUBUF (42_block_splitter.md R175). -/
def mcuSample (m : McuBuf) (bi : Fin 6) (y x : Fin 8) : Byte :=
  match bi with
  | 0 => m.y[y.val][x.val]
  | 1 => m.y[y.val][x.val + 8]
  | 2 => m.y[y.val + 8][x.val]
  | 3 => m.y[y.val + 8][x.val + 8]
  | 4 => m.cb[y][x]
  | 5 => m.cr[y][x]

/-- The row `v` of natural index `n = 8*v + u` (00_scope.md R5). -/
def rowOf (n : Fin 64) : Fin 8 := ⟨n.val / 8, by omega⟩

/-- The column `u` of natural index `n = 8*v + u` (00_scope.md R5). -/
def colOf (n : Fin 64) : Fin 8 := ⟨n.val % 8, by omega⟩

/-- The natural index `n = 8*y + x` of row `y`, column `x` (00_scope.md R5). -/
def natIndex (y x : Fin 8) : Fin 64 := ⟨8 * y.val + x.val, by omega⟩

/-- The divisor of the coefficient at natural index `n` (44_quantizer.md R204). -/
def divisor (s : State) (t : Fin 2) (n : Fin 64) : Byte := s.qt[t][zzInvTable[n]]

/-- The predictor of component `c` (10_state.md R34). -/
def predOf (s : State) (c : Fin 3) : Coef := s.pred[c]

end Sys2Proof.Machine
end

