-- ==== Sys2Proof/Machine/Flags.lean ====
section
/-! DEFINITION. Machine/Flags.lean: the flags STATE and BADCMD and the registers computed from them, STATUS and OUT_LEN
(spec/10_state.md R23, R28, R33). There are no arithmetic condition codes (R33). -/

namespace Sys2Proof.Machine

/-- The encoding of STATE in STATUS bits 1:0 (10_state.md R23). -/
def phaseBits : Phase → BitVec 2
  | .idle => 0
  | .busy => 1
  | .done => 2
  | .error => 3

/-- STATUS.UOP: SEQ.UOP when BUSY, otherwise 0 (10_state.md R23). -/
def statusUop (s : State) : Byte := if s.phase = .busy then s.uop else 0

/-- STATUS: UOP 15:8, BADCMD 2, STATE 1:0, the rest 0 (10_state.md R23). -/
def statusWord (s : State) : Word :=
  (0 : BitVec 16) ++ statusUop s ++ (0 : BitVec 5) ++ BitVec.ofBool s.badcmd ++ phaseBits s.phase

/-- OUT_LEN: WP when DONE, otherwise 0 (10_state.md R28). -/
def outLen (s : State) : Word := if s.phase = .done then s.wp else 0

/-- The gate of the host's writes to the configuration registers and PIXMEM (20_memory.md R66). -/
def hostMayWrite (s : State) : Bool := s.phase != .busy

end Sys2Proof.Machine
end

