-- ==== Sys2Proof/Machine/Sequencer.lean ====
section
/-! DEFINITION. Machine/Sequencer.lean: the sequencer's advance (spec/40_driver.md R134) and the end of every
micro-operation (R133). -/

namespace Sys2Proof.Machine

/-- The four HAC rows of R134, with the row that the table does not have (log entry 11). -/
def advanceHac (s : State) : Outcome :=
  if h : s.bi.val < 5 then .next (s.setSeq .blkld s.mx s.my ⟨s.bi.val + 1, by omega⟩)
  else if s.mx.toNat + 1 < mcuW s then .next (s.setSeq .csc (s.mx + 1) s.my 0)
  else if s.mx.toNat + 1 = mcuW s ∧ s.my.toNat + 1 < mcuH s then .next (s.setSeq .csc 0 (s.my + 1) 0)
  else if s.mx.toNat + 1 = mcuW s ∧ s.my.toNat + 1 = mcuH s then .next (s.setUop .flush)
  else .fault .sequencerOutside

/-- The table of R134: SEQ after a micro-operation that completed without error. A host command does not advance SEQ. -/
def advance (i : Instr) (s : State) : Outcome :=
  match i with
  | .nop => .next s
  | .start => .next s
  | .chk => .next (s.setUop .init)
  | .init => .next (s.setUop .qtgen)
  | .qtgen => .next (s.setUop .wsoi)
  | .wsoi => .next (s.setUop .wapp0)
  | .wapp0 => .next (s.setUop .wdqt0)
  | .wdqt0 => .next (s.setUop .wdqt1)
  | .wdqt1 => .next (s.setUop .wsof0)
  | .wsof0 => .next (s.setUop .wdht0)
  | .wdht0 => .next (s.setUop .wdht1)
  | .wdht1 => .next (s.setUop .wdht2)
  | .wdht2 => .next (s.setUop .wdht3)
  | .wdht3 => .next (s.setUop .wsos)
  | .wsos => .next (s.setUop .csc)
  | .csc => .next (s.setSeq .blkld s.mx s.my 0)
  | .blkld => .next (s.setUop .fdct)
  | .fdct => .next (s.setUop .quant)
  | .quant => .next (s.setUop .zz)
  | .zz => .next (s.setUop .hdc)
  | .hdc => .next (s.setUop .hac)
  | .hac => advanceHac s
  | .flush => .next (s.setUop .weoi)
  | .weoi => .next (s.setUop .fin)
  | .fin => .next s

/-- The end of a micro-operation (R133): error entry where it raised an error, else the advance. -/
def finish (i : Instr) (r : Attempt) : Outcome :=
  match r with
  | .done s => advance i s
  | .raised code sub s => .next (enterError i code sub s)

end Sys2Proof.Machine
end

