-- ==== Sys2Proof/Machine/Bitstream.lean ====
section
/-! DEFINITION. Machine/Bitstream.lean: FLUSH and the marker micro-operations (spec/47_bitstream.md). -/

namespace Sys2Proof.Machine

/-- The padding of the last partial byte with 1 bits (R247). -/
def padBits (s : State) : Attempt :=
  if 0 < s.bitcnt.val then putBits (2 ^ (8 - s.bitcnt.val) - 1) (8 - s.bitcnt.val) s else .done s

/-- FLUSH: pad and write the last partial byte (R247). -/
def execFlush (s : State) : Outcome := finish .flush (padBits s)

/-- WSOI: write SOI (R250). -/
def execWsoi (s : State) : Outcome := finish .wsoi (emitBytes soiBytes s)

/-- WAPP0: write the JFIF APP0 segment (R251). -/
def execWapp0 (s : State) : Outcome := finish .wapp0 (emitBytes app0Bytes s)

/-- WDQT0: write DQT for table 0 (R252). -/
def execWdqt0 (s : State) : Outcome := finish .wdqt0 (emitBytes (dqtBytes 0 s.qt[0].toList) s)

/-- WDQT1: write DQT for table 1 (R253). -/
def execWdqt1 (s : State) : Outcome := finish .wdqt1 (emitBytes (dqtBytes 1 s.qt[1].toList) s)

/-- WSOF0: write the frame header (R254). -/
def execWsof0 (s : State) : Outcome := finish .wsof0 (emitBytes (sof0Bytes s.width s.height) s)

/-- WDHT0: write DHT, DC table 0 (R255). -/
def execWdht0 (s : State) : Outcome := finish .wdht0 (emitBytes (dhtBytes .dc 0) s)

/-- WDHT1: write DHT, AC table 0 (R256). -/
def execWdht1 (s : State) : Outcome := finish .wdht1 (emitBytes (dhtBytes .ac 0) s)

/-- WDHT2: write DHT, DC table 1 (R257). -/
def execWdht2 (s : State) : Outcome := finish .wdht2 (emitBytes (dhtBytes .dc 1) s)

/-- WDHT3: write DHT, AC table 1 (R258). -/
def execWdht3 (s : State) : Outcome := finish .wdht3 (emitBytes (dhtBytes .ac 1) s)

/-- WSOS: write the scan header (R259). -/
def execWsos (s : State) : Outcome := finish .wsos (emitBytes sosBytes s)

/-- WEOI: write EOI (R260). -/
def execWeoi (s : State) : Outcome := finish .weoi (emitBytes eoiBytes s)

end Sys2Proof.Machine
end

