-- ==== Sys2Proof/Machine/Color.lean ====
section
/-! DEFINITION. Machine/Color.lean: the colour transform CSC (spec/41_color.md). -/

namespace Sys2Proof.Machine

/-- `Y(R, G, B)` (R161). -/
def lumaOf (r g b : Int) : Int := asr (19595 * r + 38470 * g + 7471 * b + 32768) 16

/-- `Cb(SR, SG, SB)` (R162). -/
def cbOf (sr sg sb : Int) : Int := asr (-11059 * sr - 21709 * sg + 32768 * sb + 33554432 + 131071) 18

/-- `Cr(SR, SG, SB)` (R163). -/
def crOf (sr sg sb : Int) : Int := asr (32768 * sr - 27439 * sg - 5329 * sb + 33554432 + 131071) 18

/-- `Ysamp(x, y)` (R166). -/
def ySamp (s : State) (x y : Nat) : Byte :=
  let p := pixFetch s x y
  toByte (lumaOf p.r.toNat p.g.toNat p.b.toNat)

/-- The sums of the channels over the 2x2 block of pixels of a chroma sample. -/
structure RgbSum where
  sr : Nat
  sg : Nat
  sb : Nat
deriving DecidableEq, Repr

/-- `SR, SG, SB` at chroma position `(cx, cy)`, clamped to the chroma plane (R166). -/
def chromaSums (s : State) (cx cy : Nat) : RgbSum :=
  let cxc := min cx (chromaW s - 1)
  let cyc := min cy (chromaH s - 1)
  let p0 := pixFetch s (2 * cxc) (2 * cyc)
  let p1 := pixFetch s (2 * cxc + 1) (2 * cyc)
  let p2 := pixFetch s (2 * cxc) (2 * cyc + 1)
  let p3 := pixFetch s (2 * cxc + 1) (2 * cyc + 1)
  { sr := p0.r.toNat + p1.r.toNat + p2.r.toNat + p3.r.toNat
    sg := p0.g.toNat + p1.g.toNat + p2.g.toNat + p3.g.toNat
    sb := p0.b.toNat + p1.b.toNat + p2.b.toNat + p3.b.toNat }

/-- `Cbsamp(cx, cy)` (R166). -/
def cbSamp (s : State) (cx cy : Nat) : Byte :=
  let q := chromaSums s cx cy
  toByte (cbOf q.sr q.sg q.sb)

/-- `Crsamp(cx, cy)` (R166). -/
def crSamp (s : State) (cx cy : Nat) : Byte :=
  let q := chromaSums s cx cy
  toByte (crOf q.sr q.sg q.sb)

/-- The MCU at (MX, MY) (R165). -/
def convertMcu (s : State) : McuBuf where
  y := Vector.ofFn fun j => Vector.ofFn fun i => ySamp s (16 * s.mx.toNat + i.val) (16 * s.my.toNat + j.val)
  cb := Vector.ofFn fun j => Vector.ofFn fun i => cbSamp s (8 * s.mx.toNat + i.val) (8 * s.my.toNat + j.val)
  cr := Vector.ofFn fun j => Vector.ofFn fun i => crSamp s (8 * s.mx.toNat + i.val) (8 * s.my.toNat + j.val)

/-- CSC: convert the MCU at (MX, MY) (R165). A fetch of a byte that does not exist is a fault (log entry 10). -/
def execCsc (s : State) : Outcome :=
  if mcuFetchInside s then finish .csc (.done { s with mcu := convertMcu s }) else .fault .pixFetchOutside

end Sys2Proof.Machine
end

