-- ==== Sys2Proof/Machine/Dct.lean ====
section
/-! DEFINITION. Machine/Dct.lean: the forward DCT FDCT (spec/43_fdct.md). -/

namespace Sys2Proof.Machine

/-- `DCTM[u][x]` (R185). -/
def dctm (u x : Fin 8) : Int := dctTable[u][x]

/-- `acc1` of the row pass: level shift and weighted sum over a row (R186). -/
def rowAcc (b : Vector Byte 64) (y u : Fin 8) : Int :=
  sum8 fun x => ((b[natIndex y x].toNat : Int) - 128) * dctm u x

/-- `T[y][u]`, with 4 fraction bits (R186). -/
def rowPass (b : Vector Byte 64) : Vector (Vector Int 8) 8 :=
  Vector.ofFn fun y => Vector.ofFn fun u => asr (rowAcc b y u + 512) 10

/-- `acc2` of the column pass (R186). -/
def colAcc (t : Vector (Vector Int 8) 8) (v u : Fin 8) : Int :=
  sum8 fun y => t[y][u] * dctm v y

/-- The coefficient at row `v`, column `u`, as the integer that R186 computes. -/
def dctCoef (t : Vector (Vector Int 8) 8) (v u : Fin 8) : Int := asr (colAcc t v u + 131072) 18

/-- FBLK of a block of samples (R186). By R187 every value fits `s12` (log entry 21). -/
def forwardDct (b : Vector Byte 64) : Vector Coef 64 :=
  let t := rowPass b
  Vector.ofFn fun n => toCoef (dctCoef t (rowOf n) (colOf n))

/-- FDCT: SBLK to FBLK (R186). -/
def execFdct (s : State) : Outcome := finish .fdct (.done { s with fblk := forwardDct s.sblk })

end Sys2Proof.Machine
end

