-- ==== Sys2Proof/Machine/Driver.lean ====
section
/-! DEFINITION. Machine/Driver.lean: the host commands NOP and START and the driver's micro-operations CHK, INIT and FIN
(spec/40_driver.md). -/

namespace Sys2Proof.Machine

/-- NOP: no state change, in every state (R130). -/
def execNop (s : State) : Outcome := .next s

/-- START: refused while BUSY, else it begins an encode (R131, R132). -/
def execStart (s : State) : Outcome :=
  if s.phase = .busy then .next (refuseCommand s) else .next (acceptStart s)

/-- The checks of CHK, in their order; the first that fails is reported (R135, 60_exceptions.md R282). -/
def checkArguments (s : State) : Attempt :=
  if s.width = 0 then .raised .invalidArguments 1 s
  else if s.height = 0 then .raised .invalidArguments 2 s
  else if s.pixLen.toNat ≠ bytesNeeded s then .raised .invalidArguments 3 s
  else if s.params.pixBytes < bytesNeeded s then .raised .invalidArguments 4 s
  else .done s

/-- CHK: argument validation (R135). -/
def execChk (s : State) : Outcome := finish .chk (checkArguments s)

/-- The writes of INIT (R136). -/
def initEncode (s : State) : State :=
  { s with
    wp := 0
    bitacc := 0
    bitcnt := 0
    pred := Vector.replicate 3 0
    mx := 0
    my := 0
    bi := 0 }

/-- INIT: per-encode initialisation (R136). -/
def execInit (s : State) : Outcome := finish .init (.done (initEncode s))

/-- The write of FIN (R137). -/
def commit (s : State) : State := { s with phase := .done }

/-- FIN: commit (R137). -/
def execFin (s : State) : Outcome := finish .fin (.done (commit s))

end Sys2Proof.Machine
end

