-- ==== Sys2Proof/Machine/Entropy.lean ====
section
/-! DEFINITION. Machine/Entropy.lean: the entropy coder HDC and HAC (spec/46_entropy.md). -/

namespace Sys2Proof.Machine

/-- `PRED[c] <- v` (10_state.md R34). -/
def State.setPred (s : State) (c : Fin 3) (v : Coef) : State := { s with pred := s.pred.set c v }

/-- The amplitude bits of `v` in category `n`; nothing for category 0 (R221). -/
def putAmp (v : Int) (n : Nat) (s : State) : Attempt := putBits (amp v n) n s

/-- The DC difference of the current block (R223). -/
def dcDiff (s : State) : Int := s.zblk[0].toInt - (predOf s (compOf s.bi)).toInt

/-- The coding of the DC coefficient (R223). -/
def codeDc (s : State) : Attempt :=
  let c := compOf s.bi
  let diff := dcDiff s
  let n := cat diff
  if 11 < n then .raised .symbolOverflow 1 s
  else ((putHuff (tabOf s.bi) .dc n s).andThen (putAmp diff n)).andThen fun s' => .done (s'.setPred c s.zblk[0])

/-- HDC: code the DC coefficient (R223). -/
def execHdc (s : State) : Outcome := finish .hdc (codeDc s)

/-- `n` times the symbol ZRL, sixteen zeros each (R224). -/
def putZrls (t : Fin 2) : Nat → State → Attempt
  | 0, s => .done s
  | n + 1, s => (putHuff t .ac 0xF0 s).andThen (putZrls t n)

/-- A coefficient `v` that is not 0, after a run of `r` zeros (R224). The `while` loop of the rule writes `r div 16` ZRLs and
leaves the run `r mod 16`. -/
def putCoef (t : Fin 2) (r : Nat) (v : Int) (s : State) : Attempt :=
  (putZrls t (r / 16) s).andThen fun s1 =>
    if 10 < cat v then .raised .symbolOverflow 2 s1
    else (putHuff t .ac (r % 16 * 16 + cat v) s1).andThen (putAmp v (cat v))

/-- The loop of R224 over the coefficients that remain, with the current run of zeros; EOB at the end of a trailing run. -/
def codeAc (t : Fin 2) : List Coef → Nat → State → Attempt
  | [], r, s => if 0 < r then putHuff t .ac 0x00 s else .done s
  | v :: vs, r, s =>
    if v = 0 then codeAc t vs (r + 1) s else (putCoef t r v.toInt s).andThen (codeAc t vs 0)

/-- `ZBLK[1..63]` (10_state.md R39). -/
def acCoefs (s : State) : List Coef := s.zblk.toList.tail

/-- HAC: code the 63 AC coefficients (R224). -/
def execHac (s : State) : Outcome := finish .hac (codeAc (tabOf s.bi) (acCoefs s) 0 s)

end Sys2Proof.Machine
end

