-- ==== Sys2Proof/Machine/Quantizer.lean ====
section
/-! DEFINITION. Machine/Quantizer.lean: the quantizer QTGEN and QUANT (spec/44_quantizer.md). -/

namespace Sys2Proof.Machine

/-- `Qe`, the effective quality (R200). -/
def effectiveQuality (q : BitVec 8) : Nat := clamp q.toNat 1 100

/-- `S`, the scale factor (R201). -/
def scaleFactor (qe : Nat) : Nat := if qe < 50 then 5000 / qe else 200 - 2 * qe

/-- One table entry (R202). -/
def scaledEntry (base scale : Nat) : Nat := clamp ((base * scale + 50) / 100) 1 255

/-- QT[0] and QT[1] for a quality (R202). -/
def quantTables (q : BitVec 8) : Vector (Vector Byte 64) 2 :=
  Vector.ofFn fun t => Vector.ofFn fun k => BitVec.ofNat 8 (scaledEntry (baseZZ t k) (scaleFactor (effectiveQuality q)))

/-- QTGEN: derive both tables (R202). -/
def execQtgen (s : State) : Outcome := finish .qtgen (.done { s with qt := quantTables s.quality })

/-- The magnitude `m` of R205: `a / d` rounded to nearest, ties away from zero. -/
def quantMagnitude (a d : Nat) : Nat := (a + d / 2) / d

/-- One coefficient divided by its divisor (R205). A zero divisor gives a free value (log entry 13). -/
def quantize (f : Coef) (d : Byte) : Coef :=
  if d = 0 then Config.quotientByZero f
  else if 0 ≤ f.toInt then toCoef (quantMagnitude f.toInt.natAbs d.toNat)
  else toCoef (-(quantMagnitude f.toInt.natAbs d.toNat : Int))

/-- QBLK of the current block (R205). -/
def quantBlock (s : State) : Vector Coef 64 :=
  Vector.ofFn fun n => quantize s.fblk[n] (divisor s (tabOf s.bi) n)

/-- QUANT: quantize one block (R205). -/
def execQuant (s : State) : Outcome := finish .quant (.done { s with qblk := quantBlock s })

end Sys2Proof.Machine
end

