-- ==== Sys2Proof/Machine/Splitter.lean ====
section
/-! DEFINITION. Machine/Splitter.lean: the block splitter BLKLD (spec/42_block_splitter.md). -/

namespace Sys2Proof.Machine

/-- Block `bi` of MCUBUF in natural order (R175). -/
def loadBlock (m : McuBuf) (bi : Fin 6) : Vector Byte 64 := Vector.ofFn fun n => mcuSample m bi (rowOf n) (colOf n)

/-- BLKLD: load block BI of the current MCU into SBLK (R175). -/
def execBlkld (s : State) : Outcome := finish .blkld (.done { s with sblk := loadBlock s.mcu s.bi })

end Sys2Proof.Machine
end

