-- ==== Sys2Proof/Machine/Zigzag.lean ====
section
/-! DEFINITION. Machine/Zigzag.lean: the zig-zag reorderer ZZ (spec/45_zigzag.md). -/

namespace Sys2Proof.Machine

/-- A block in zig-zag order (R216). -/
def zigzagOrder (b : Vector Coef 64) : Vector Coef 64 := Vector.ofFn fun k => b[zzTable[k]]

/-- ZZ: reorder one block (R216). -/
def execZz (s : State) : Outcome := finish .zz (.done { s with zblk := zigzagOrder s.qblk })

end Sys2Proof.Machine
end

