-- ==== Sys2Proof/Machine/Dispatch.lean ====
section
/-! DEFINITION. Machine/Dispatch.lean: one arm per instruction. -/

namespace Sys2Proof.Machine

def exec (i : Instr) (s : State) : Host.Outcome State Fault Refusal :=
  match i with
  | .nop => Sys2Proof.Machine.execNop s
  | .start => Sys2Proof.Machine.execStart s
  | .chk => Sys2Proof.Machine.execChk s
  | .init => Sys2Proof.Machine.execInit s
  | .qtgen => Sys2Proof.Machine.execQtgen s
  | .wsoi => Sys2Proof.Machine.execWsoi s
  | .wapp0 => Sys2Proof.Machine.execWapp0 s
  | .wdqt0 => Sys2Proof.Machine.execWdqt0 s
  | .wdqt1 => Sys2Proof.Machine.execWdqt1 s
  | .wsof0 => Sys2Proof.Machine.execWsof0 s
  | .wdht0 => Sys2Proof.Machine.execWdht0 s
  | .wdht1 => Sys2Proof.Machine.execWdht1 s
  | .wdht2 => Sys2Proof.Machine.execWdht2 s
  | .wdht3 => Sys2Proof.Machine.execWdht3 s
  | .wsos => Sys2Proof.Machine.execWsos s
  | .weoi => Sys2Proof.Machine.execWeoi s
  | .csc => Sys2Proof.Machine.execCsc s
  | .blkld => Sys2Proof.Machine.execBlkld s
  | .fdct => Sys2Proof.Machine.execFdct s
  | .quant => Sys2Proof.Machine.execQuant s
  | .zz => Sys2Proof.Machine.execZz s
  | .hdc => Sys2Proof.Machine.execHdc s
  | .hac => Sys2Proof.Machine.execHac s
  | .flush => Sys2Proof.Machine.execFlush s
  | .fin => Sys2Proof.Machine.execFin s

end Sys2Proof.Machine
end

