-- ==== Sys2Proof/Machine/Bus.lean ====
section
/-! DEFINITION. Machine/Bus.lean: the host's accesses (spec/20_memory.md R61) to the registers (spec/10_state.md R21 to
R31), PIXMEM and OUTMEM. A write to CMD is a command, which Machine/Fetch.lean decodes. -/

namespace Sys2Proof.Machine

/-- The byte offset of a register (10_state.md R21). -/
def regOffset : HostReg → BitVec 12
  | .cmd => 0x00
  | .status => 0x04
  | .width => 0x08
  | .height => 0x0C
  | .quality => 0x10
  | .pixLen => 0x14
  | .outLen => 0x18
  | .err => 0x1C
  | .errInfo => 0x20

/-- The value of the register at an offset: CMD, unmapped offsets and offsets that are not a multiple of 4 read 0
(10_state.md R21 to R31; U7, U8, log entry 15). -/
def regValue (s : State) (off : BitVec 12) : Word :=
  if off = regOffset .status then statusWord s
  else if off = regOffset .width then s.width.setWidth 32
  else if off = regOffset .height then s.height.setWidth 32
  else if off = regOffset .quality then s.quality.setWidth 32
  else if off = regOffset .pixLen then s.pixLen
  else if off = regOffset .outLen then outLen s
  else if off = regOffset .err then s.err
  else if off = regOffset .errInfo then s.errInfo
  else 0

/-- The writable bits of the register at an offset other than CMD; every other offset ignores the write
(10_state.md R24 to R27, R31; U7, U8, log entry 15). -/
def writeConfig (s : State) (off : BitVec 12) (v : Word) : State :=
  if off = regOffset .width then { s with width := v.setWidth 16 }
  else if off = regOffset .height then { s with height := v.setWidth 16 }
  else if off = regOffset .quality then { s with quality := v.setWidth 8 }
  else if off = regOffset .pixLen then { s with pixLen := v }
  else s

/-- `RegWrite(off, v)` for an offset other than CMD: without effect while BUSY (20_memory.md R61, R66). -/
def hostRegWrite (off : BitVec 12) (v : Word) (s : State) : State := if hostMayWrite s then writeConfig s off v else s

/-- `PixWrite(a, b)`: without effect while BUSY and outside PIXMEM (20_memory.md R61, R66; U9, U10). -/
def hostPixWrite (a : Nat) (b : Byte) (s : State) : State :=
  if hostMayWrite s && decide (a < s.params.pixBytes) then { s with pixmem := s.pixmem.write a b } else s

/-- The value of `PixRead(a)`; 0x00 outside PIXMEM (20_memory.md R61; U9). -/
def pixReadValue (s : State) (a : Nat) : Byte := if a < s.params.pixBytes then pixByte s a else 0x00

/-- The value of `OutRead(a)`: 0x00 from OUT_LEN on and outside OUTMEM (20_memory.md R61, R67; U9). -/
def outReadValue (s : State) (a : Nat) : Byte :=
  if a < (outLen s).toNat ∧ a < s.params.outBytes then outByte s a else 0x00

/-- A host read returns a value and changes nothing of JENC (20_memory.md R64; log entry 4). -/
def returnToHost (r : HostReturn) (s : State) : State := { s with reads := r :: s.reads }

end Sys2Proof.Machine
end

