-- ==== Sys2Proof/Machine/Fetch.lean ====
section
/-! DEFINITION. Machine/Fetch.lean: which agent moves next and what it does (spec/00_scope.md R2, spec/40_driver.md
R133, spec/20_memory.md R61, R70). -/

namespace Sys2Proof.Machine

/-- What the next step is: run an instruction, or a step that is no instruction and is complete at once, or no meaning. -/
inductive Action where
  | run (i : Instr) (s : State)
  | settle (s : State)
  | refuse (r : Refusal)
deriving DecidableEq, Repr

/-- The CORE's step: it is enabled exactly when STATE = BUSY, and executes the micro-operation SEQ.UOP (40_driver.md
R133). Where it is not enabled nothing happens (log entry 3). -/
def coreAction (s : State) : Action :=
  if s.phase = .busy then
    match decodeUop s.uop with
    | .ok i => .run i s
    | .error _ => .refuse .unusedMicroOp
  else .settle s

/-- A write to CMD: the command it encodes, or a refused command (40_driver.md R130 to R132). -/
def commandAction (w : Word) (s : State) : Action :=
  match decodeCommand w with
  | .ok i => .run i s
  | .error _ => .settle (refuseCommand s)

/-- One event of the environment or of the CORE, on the state from which it has been taken. -/
def eventAction (e : Event) (s : State) : Action :=
  match e with
  | .core => coreAction s
  | .regWrite off v => if off = regOffset .cmd then commandAction v s else .settle (hostRegWrite off v s)
  | .regRead off => .settle (returnToHost (.word (regValue s off)) s)
  | .pixWrite a b => .settle (hostPixWrite a b s)
  | .pixRead a => .settle (returnToHost (.byte (pixReadValue s a)) s)
  | .outRead a => .settle (returnToHost (.byte (outReadValue s a)) s)
  | .reset => .settle (assertReset s)

/-- The next action: the first pending event; with none pending, the CORE's step (40_driver.md R133,
70_reset_and_hazards.md R317; log entry 2). -/
def nextAction (s : State) : Action :=
  match s.sched with
  | [] => coreAction s
  | e :: rest => eventAction e { s with sched := rest }

/-- Put a code where the next step takes its instruction from: a micro-operation into SEQ.UOP with STATE = BUSY and the
CORE's step next, a command word into the host's next write to CMD (log entry 17). -/
def placeCode (s : State) (c : Code) : State :=
  match c with
  | .uop b => { s with phase := .busy, uop := b, sched := .core :: s.sched }
  | .command w => { s with sched := .regWrite (regOffset .cmd) w :: s.sched }

end Sys2Proof.Machine
end

