-- ==== Sys2Proof/Machine/Step.lean ====
section
/-! DEFINITION. Machine/Step.lean: one step of the machine. -/

namespace Sys2Proof.Machine

/-- One atomic step of whichever agent moves next (spec/00_scope.md R2, spec/20_memory.md R70). -/
def step (s : State) : Host.Outcome State Fault Refusal :=
  match nextAction s with
  | .run i s' => exec i s'
  | .settle s' => .next s'
  | .refuse r => .refused r

/-- `s` with the instruction whose bits are `w` placed where the next step takes its instruction from. -/
def State.withFetchWord (s : State) (nbits w : Nat) : State :=
  match tableCode nbits w with
  | some c => placeCode s c
  | none => s

end Sys2Proof.Machine
end

