-- ==== Sys2Proof/Machine/Boundary.lean ====
section
/-! DEFINITION. Machine/Boundary.lean: the host script (spec/30_encoding.md R113, R114), the micro-operation sequence of
an encode (spec/30_encoding.md R115, spec/40_driver.md R138) and the boundary function encodeJpeg (spec/40_driver.md
R142), as definitions over the machine (log entry 20). -/

namespace Sys2Proof.Machine

/-- `wr REG, value` (R113). -/
def scriptWr (r : HostReg) (v : Word) : List Event := [.regWrite (regOffset r) v]

/-- `rd REG` (R113). -/
def scriptRd (r : HostReg) : List Event := [.regRead (regOffset r)]

/-- `cmd NOP` (R114). -/
def scriptNop : List Event := scriptWr .cmd 0x00000000

/-- `cmd START` (R114). -/
def scriptStart : List Event := scriptWr .cmd 0x00000001

/-- `pix addr, b0 b1 ... bn` (R114). -/
def scriptPix (addr : Nat) : List Byte → List Event
  | [] => []
  | b :: bs => .pixWrite addr b :: scriptPix (addr + 1) bs

/-- `out addr, n` (R114). -/
def scriptOut (addr : Nat) : Nat → List Event
  | 0 => []
  | n + 1 => .outRead addr :: scriptOut (addr + 1) n

/-- Run a list of events, and nothing else, from a state. -/
def runEvents (es : List Event) (s : State) : Outcome :=
  match Host.Core.run Sys2Proof.core es.length { s with sched := es } with
  | .next t => .next { t with sched := s.sched }
  | .fault f => .fault f
  | .refused r => .refused r

/-- `wait` (R114): read STATUS until it is not BUSY; between two reads the CORE takes one step. -/
def scriptWait : Nat → State → Outcome
  | 0, s => .next s
  | n + 1, s =>
    match runEvents (scriptRd .status) s with
    | .next t =>
      if t.phase = .busy then
        match runEvents [.core] t with
        | .next u => scriptWait n u
        | .fault f => .fault f
        | .refused r => .refused r
      else .next t
    | .fault f => .fault f
    | .refused r => .refused r

/-- `BLOCK(b)` (R115). -/
def blockSequence : List Instr := [.blkld, .fdct, .quant, .zz, .hdc, .hac]

/-- `MCU(x,y)` (R115): CSC and six blocks. -/
def mcuSequence : List Instr := .csc :: (List.replicate 6 blockSequence).flatten

/-- `ENCODE` (R138): the micro-operations of one successful encode of `mcus` MCUs. -/
def encodeSequence (mcus : Nat) : List Instr :=
  [.chk, .init, .qtgen, .wsoi, .wapp0, .wdqt0, .wdqt1, .wsof0, .wdht0, .wdht1, .wdht2, .wdht3, .wsos] ++
    (List.replicate mcus mcuSequence).flatten ++ [.flush, .weoi, .fin]

/-- The number of CORE steps of a successful encode (R138, 70_reset_and_hazards.md R316). -/
def encodeSteps (s : State) : Nat := 16 + 37 * (mcuW s * mcuH s)

/-- `Qint`: the caller's quality as an integer percentage; 70 when the caller omitted it (R142). -/
def qualityInt (q : Option Rat) : Nat :=
  match q with
  | none => 70
  | some r => (max 0 (min 255 (r * 100 + 1 / 2).floor)).toNat

/-- The errors of the boundary function (R142). -/
inductive BoundaryError where
  | invalidArguments
  | encodingError
deriving DecidableEq, Repr

/-- What encodeJpeg comes to. `notReady` is its precondition `STATE != BUSY` failing; `stopped` is a stop of the
machine, or a STATE or ERR.CODE that R142 gives no result for. -/
inductive BoundaryResult where
  | bytes (file : List Byte)
  | error (e : BoundaryError)
  | notReady
  | stopped
deriving DecidableEq, Repr

/-- The file in the values that the host read, newest first. -/
def fileOfReads : List HostReturn → List Byte
  | [] => []
  | .byte b :: rest => fileOfReads rest ++ [b]
  | .word _ :: rest => fileOfReads rest

/-- The host's last reads: the file when DONE, the error when ERROR (R142). ERR.CODE 1 is InvalidArguments, codes 3 and 4
are EncodingError. -/
def collectResult (s : State) : BoundaryResult :=
  match s.phase with
  | .done =>
    match runEvents (scriptOut 0 (regValue s (regOffset .outLen)).toNat) { s with reads := [] } with
    | .next t => .bytes (fileOfReads t.reads)
    | .fault _ => .stopped
    | .refused _ => .stopped
  | .error =>
    let code := (regValue s (regOffset .err)).extractLsb' 0 4
    if code = errorCodeBits .invalidArguments then .error .invalidArguments
    else if code = errorCodeBits .symbolOverflow then .error .encodingError
    else if code = errorCodeBits .encodingError then .error .encodingError
    else .stopped
  | .idle => .stopped
  | .busy => .stopped

/-- The host script of encodeJpeg up to the START command (R142). -/
def encodeScript (width height : Nat) (rgba : List Byte) (quality : Option Rat) (p : Params) : List Event :=
  scriptWr .width (BitVec.ofNat 32 width) ++ scriptWr .height (BitVec.ofNat 32 height) ++
    scriptWr .quality (BitVec.ofNat 32 (qualityInt quality)) ++ scriptWr .pixLen (BitVec.ofNat 32 rgba.length) ++
    scriptPix 0 (rgba.take p.pixBytes) ++ scriptStart

/-- `encodeJpeg(width, height, rgba, quality)` on a machine in state `s` (R142). -/
def encodeJpeg (width height : Nat) (rgba : List Byte) (quality : Option Rat) (s : State) : BoundaryResult :=
  if s.phase = .busy then .notReady
  else if 65535 < width ∨ 65535 < height ∨ 2 ^ 32 ≤ rgba.length then .error .invalidArguments
  else
    match runEvents (encodeScript width height rgba quality s.params) s with
    | .next t =>
      match scriptWait (encodeSteps t + 1) t with
      | .next u => collectResult u
      | .fault _ => .stopped
      | .refused _ => .stopped
    | .fault _ => .stopped
    | .refused _ => .stopped

end Sys2Proof.Machine
end

