-- ==== Sys2Proof/Machine/CodeTables.lean ====
section
/-! DEFINITION. Machine/CodeTables.lean: the four Huffman code tables as spec/30_encoding.md R111 lists them, row by row,
with each code written in its bits. No meaning uses them: statements compare the construction of R106 with them. -/

namespace Sys2Proof.Machine

/-- DC table 0, luma (30_encoding.md R111). -/
def dcListed0 : List HuffEntry :=
  [
    ⟨0, 0b00, 2⟩, ⟨1, 0b010, 3⟩, ⟨2, 0b011, 3⟩,
    ⟨3, 0b100, 3⟩, ⟨4, 0b101, 3⟩, ⟨5, 0b110, 3⟩,
    ⟨6, 0b1110, 4⟩, ⟨7, 0b11110, 5⟩, ⟨8, 0b111110, 6⟩,
    ⟨9, 0b1111110, 7⟩, ⟨10, 0b11111110, 8⟩, ⟨11, 0b111111110, 9⟩]

/-- DC table 1, chroma (30_encoding.md R111). -/
def dcListed1 : List HuffEntry :=
  [
    ⟨0, 0b00, 2⟩, ⟨1, 0b01, 2⟩, ⟨2, 0b10, 2⟩,
    ⟨3, 0b110, 3⟩, ⟨4, 0b1110, 4⟩, ⟨5, 0b11110, 5⟩,
    ⟨6, 0b111110, 6⟩, ⟨7, 0b1111110, 7⟩, ⟨8, 0b11111110, 8⟩,
    ⟨9, 0b111111110, 9⟩, ⟨10, 0b1111111110, 10⟩, ⟨11, 0b11111111110, 11⟩]

/-- AC table 0, luma, part 1 (30_encoding.md R111). -/
def acListed0a : List HuffEntry :=
  [
    ⟨0x01, 0b00, 2⟩, ⟨0x02, 0b01, 2⟩, ⟨0x03, 0b100, 3⟩,
    ⟨0x00, 0b1010, 4⟩, ⟨0x04, 0b1011, 4⟩, ⟨0x11, 0b1100, 4⟩,
    ⟨0x05, 0b11010, 5⟩, ⟨0x12, 0b11011, 5⟩, ⟨0x21, 0b11100, 5⟩,
    ⟨0x31, 0b111010, 6⟩, ⟨0x41, 0b111011, 6⟩, ⟨0x06, 0b1111000, 7⟩,
    ⟨0x13, 0b1111001, 7⟩, ⟨0x51, 0b1111010, 7⟩, ⟨0x61, 0b1111011, 7⟩,
    ⟨0x07, 0b11111000, 8⟩, ⟨0x22, 0b11111001, 8⟩, ⟨0x71, 0b11111010, 8⟩,
    ⟨0x14, 0b111110110, 9⟩, ⟨0x32, 0b111110111, 9⟩, ⟨0x81, 0b111111000, 9⟩,
    ⟨0x91, 0b111111001, 9⟩, ⟨0xA1, 0b111111010, 9⟩, ⟨0x08, 0b1111110110, 10⟩,
    ⟨0x23, 0b1111110111, 10⟩, ⟨0x42, 0b1111111000, 10⟩, ⟨0xB1, 0b1111111001, 10⟩]

/-- AC table 0, luma, part 2 (30_encoding.md R111). -/
def acListed0b : List HuffEntry :=
  [
    ⟨0xC1, 0b1111111010, 10⟩, ⟨0x15, 0b11111110110, 11⟩, ⟨0x52, 0b11111110111, 11⟩,
    ⟨0xD1, 0b11111111000, 11⟩, ⟨0xF0, 0b11111111001, 11⟩, ⟨0x24, 0b111111110100, 12⟩,
    ⟨0x33, 0b111111110101, 12⟩, ⟨0x62, 0b111111110110, 12⟩, ⟨0x72, 0b111111110111, 12⟩,
    ⟨0x82, 0b111111111000000, 15⟩, ⟨0x09, 0b1111111110000010, 16⟩, ⟨0x0A, 0b1111111110000011, 16⟩,
    ⟨0x16, 0b1111111110000100, 16⟩, ⟨0x17, 0b1111111110000101, 16⟩, ⟨0x18, 0b1111111110000110, 16⟩,
    ⟨0x19, 0b1111111110000111, 16⟩, ⟨0x1A, 0b1111111110001000, 16⟩, ⟨0x25, 0b1111111110001001, 16⟩,
    ⟨0x26, 0b1111111110001010, 16⟩, ⟨0x27, 0b1111111110001011, 16⟩, ⟨0x28, 0b1111111110001100, 16⟩,
    ⟨0x29, 0b1111111110001101, 16⟩, ⟨0x2A, 0b1111111110001110, 16⟩, ⟨0x34, 0b1111111110001111, 16⟩,
    ⟨0x35, 0b1111111110010000, 16⟩, ⟨0x36, 0b1111111110010001, 16⟩, ⟨0x37, 0b1111111110010010, 16⟩]

/-- AC table 0, luma, part 3 (30_encoding.md R111). -/
def acListed0c : List HuffEntry :=
  [
    ⟨0x38, 0b1111111110010011, 16⟩, ⟨0x39, 0b1111111110010100, 16⟩, ⟨0x3A, 0b1111111110010101, 16⟩,
    ⟨0x43, 0b1111111110010110, 16⟩, ⟨0x44, 0b1111111110010111, 16⟩, ⟨0x45, 0b1111111110011000, 16⟩,
    ⟨0x46, 0b1111111110011001, 16⟩, ⟨0x47, 0b1111111110011010, 16⟩, ⟨0x48, 0b1111111110011011, 16⟩,
    ⟨0x49, 0b1111111110011100, 16⟩, ⟨0x4A, 0b1111111110011101, 16⟩, ⟨0x53, 0b1111111110011110, 16⟩,
    ⟨0x54, 0b1111111110011111, 16⟩, ⟨0x55, 0b1111111110100000, 16⟩, ⟨0x56, 0b1111111110100001, 16⟩,
    ⟨0x57, 0b1111111110100010, 16⟩, ⟨0x58, 0b1111111110100011, 16⟩, ⟨0x59, 0b1111111110100100, 16⟩,
    ⟨0x5A, 0b1111111110100101, 16⟩, ⟨0x63, 0b1111111110100110, 16⟩, ⟨0x64, 0b1111111110100111, 16⟩,
    ⟨0x65, 0b1111111110101000, 16⟩, ⟨0x66, 0b1111111110101001, 16⟩, ⟨0x67, 0b1111111110101010, 16⟩,
    ⟨0x68, 0b1111111110101011, 16⟩, ⟨0x69, 0b1111111110101100, 16⟩, ⟨0x6A, 0b1111111110101101, 16⟩]

/-- AC table 0, luma, part 4 (30_encoding.md R111). -/
def acListed0d : List HuffEntry :=
  [
    ⟨0x73, 0b1111111110101110, 16⟩, ⟨0x74, 0b1111111110101111, 16⟩, ⟨0x75, 0b1111111110110000, 16⟩,
    ⟨0x76, 0b1111111110110001, 16⟩, ⟨0x77, 0b1111111110110010, 16⟩, ⟨0x78, 0b1111111110110011, 16⟩,
    ⟨0x79, 0b1111111110110100, 16⟩, ⟨0x7A, 0b1111111110110101, 16⟩, ⟨0x83, 0b1111111110110110, 16⟩,
    ⟨0x84, 0b1111111110110111, 16⟩, ⟨0x85, 0b1111111110111000, 16⟩, ⟨0x86, 0b1111111110111001, 16⟩,
    ⟨0x87, 0b1111111110111010, 16⟩, ⟨0x88, 0b1111111110111011, 16⟩, ⟨0x89, 0b1111111110111100, 16⟩,
    ⟨0x8A, 0b1111111110111101, 16⟩, ⟨0x92, 0b1111111110111110, 16⟩, ⟨0x93, 0b1111111110111111, 16⟩,
    ⟨0x94, 0b1111111111000000, 16⟩, ⟨0x95, 0b1111111111000001, 16⟩, ⟨0x96, 0b1111111111000010, 16⟩,
    ⟨0x97, 0b1111111111000011, 16⟩, ⟨0x98, 0b1111111111000100, 16⟩, ⟨0x99, 0b1111111111000101, 16⟩,
    ⟨0x9A, 0b1111111111000110, 16⟩, ⟨0xA2, 0b1111111111000111, 16⟩, ⟨0xA3, 0b1111111111001000, 16⟩]

/-- AC table 0, luma, part 5 (30_encoding.md R111). -/
def acListed0e : List HuffEntry :=
  [
    ⟨0xA4, 0b1111111111001001, 16⟩, ⟨0xA5, 0b1111111111001010, 16⟩, ⟨0xA6, 0b1111111111001011, 16⟩,
    ⟨0xA7, 0b1111111111001100, 16⟩, ⟨0xA8, 0b1111111111001101, 16⟩, ⟨0xA9, 0b1111111111001110, 16⟩,
    ⟨0xAA, 0b1111111111001111, 16⟩, ⟨0xB2, 0b1111111111010000, 16⟩, ⟨0xB3, 0b1111111111010001, 16⟩,
    ⟨0xB4, 0b1111111111010010, 16⟩, ⟨0xB5, 0b1111111111010011, 16⟩, ⟨0xB6, 0b1111111111010100, 16⟩,
    ⟨0xB7, 0b1111111111010101, 16⟩, ⟨0xB8, 0b1111111111010110, 16⟩, ⟨0xB9, 0b1111111111010111, 16⟩,
    ⟨0xBA, 0b1111111111011000, 16⟩, ⟨0xC2, 0b1111111111011001, 16⟩, ⟨0xC3, 0b1111111111011010, 16⟩,
    ⟨0xC4, 0b1111111111011011, 16⟩, ⟨0xC5, 0b1111111111011100, 16⟩, ⟨0xC6, 0b1111111111011101, 16⟩,
    ⟨0xC7, 0b1111111111011110, 16⟩, ⟨0xC8, 0b1111111111011111, 16⟩, ⟨0xC9, 0b1111111111100000, 16⟩,
    ⟨0xCA, 0b1111111111100001, 16⟩, ⟨0xD2, 0b1111111111100010, 16⟩, ⟨0xD3, 0b1111111111100011, 16⟩]

/-- AC table 0, luma, part 6 (30_encoding.md R111). -/
def acListed0f : List HuffEntry :=
  [
    ⟨0xD4, 0b1111111111100100, 16⟩, ⟨0xD5, 0b1111111111100101, 16⟩, ⟨0xD6, 0b1111111111100110, 16⟩,
    ⟨0xD7, 0b1111111111100111, 16⟩, ⟨0xD8, 0b1111111111101000, 16⟩, ⟨0xD9, 0b1111111111101001, 16⟩,
    ⟨0xDA, 0b1111111111101010, 16⟩, ⟨0xE1, 0b1111111111101011, 16⟩, ⟨0xE2, 0b1111111111101100, 16⟩,
    ⟨0xE3, 0b1111111111101101, 16⟩, ⟨0xE4, 0b1111111111101110, 16⟩, ⟨0xE5, 0b1111111111101111, 16⟩,
    ⟨0xE6, 0b1111111111110000, 16⟩, ⟨0xE7, 0b1111111111110001, 16⟩, ⟨0xE8, 0b1111111111110010, 16⟩,
    ⟨0xE9, 0b1111111111110011, 16⟩, ⟨0xEA, 0b1111111111110100, 16⟩, ⟨0xF1, 0b1111111111110101, 16⟩,
    ⟨0xF2, 0b1111111111110110, 16⟩, ⟨0xF3, 0b1111111111110111, 16⟩, ⟨0xF4, 0b1111111111111000, 16⟩,
    ⟨0xF5, 0b1111111111111001, 16⟩, ⟨0xF6, 0b1111111111111010, 16⟩, ⟨0xF7, 0b1111111111111011, 16⟩,
    ⟨0xF8, 0b1111111111111100, 16⟩, ⟨0xF9, 0b1111111111111101, 16⟩, ⟨0xFA, 0b1111111111111110, 16⟩]

/-- AC table 0, luma (30_encoding.md R111). -/
def acListed0 : List HuffEntry :=
  acListed0a ++ acListed0b ++ acListed0c ++ acListed0d ++ acListed0e ++ acListed0f

/-- AC table 1, chroma, part 1 (30_encoding.md R111). -/
def acListed1a : List HuffEntry :=
  [
    ⟨0x00, 0b00, 2⟩, ⟨0x01, 0b01, 2⟩, ⟨0x02, 0b100, 3⟩,
    ⟨0x03, 0b1010, 4⟩, ⟨0x11, 0b1011, 4⟩, ⟨0x04, 0b11000, 5⟩,
    ⟨0x05, 0b11001, 5⟩, ⟨0x21, 0b11010, 5⟩, ⟨0x31, 0b11011, 5⟩,
    ⟨0x06, 0b111000, 6⟩, ⟨0x12, 0b111001, 6⟩, ⟨0x41, 0b111010, 6⟩,
    ⟨0x51, 0b111011, 6⟩, ⟨0x07, 0b1111000, 7⟩, ⟨0x61, 0b1111001, 7⟩,
    ⟨0x71, 0b1111010, 7⟩, ⟨0x13, 0b11110110, 8⟩, ⟨0x22, 0b11110111, 8⟩,
    ⟨0x32, 0b11111000, 8⟩, ⟨0x81, 0b11111001, 8⟩, ⟨0x08, 0b111110100, 9⟩,
    ⟨0x14, 0b111110101, 9⟩, ⟨0x42, 0b111110110, 9⟩, ⟨0x91, 0b111110111, 9⟩,
    ⟨0xA1, 0b111111000, 9⟩, ⟨0xB1, 0b111111001, 9⟩, ⟨0xC1, 0b111111010, 9⟩]

/-- AC table 1, chroma, part 2 (30_encoding.md R111). -/
def acListed1b : List HuffEntry :=
  [
    ⟨0x09, 0b1111110110, 10⟩, ⟨0x23, 0b1111110111, 10⟩, ⟨0x33, 0b1111111000, 10⟩,
    ⟨0x52, 0b1111111001, 10⟩, ⟨0xF0, 0b1111111010, 10⟩, ⟨0x15, 0b11111110110, 11⟩,
    ⟨0x62, 0b11111110111, 11⟩, ⟨0x72, 0b11111111000, 11⟩, ⟨0xD1, 0b11111111001, 11⟩,
    ⟨0x0A, 0b111111110100, 12⟩, ⟨0x16, 0b111111110101, 12⟩, ⟨0x24, 0b111111110110, 12⟩,
    ⟨0x34, 0b111111110111, 12⟩, ⟨0xE1, 0b11111111100000, 14⟩, ⟨0x25, 0b111111111000010, 15⟩,
    ⟨0xF1, 0b111111111000011, 15⟩, ⟨0x17, 0b1111111110001000, 16⟩, ⟨0x18, 0b1111111110001001, 16⟩,
    ⟨0x19, 0b1111111110001010, 16⟩, ⟨0x1A, 0b1111111110001011, 16⟩, ⟨0x26, 0b1111111110001100, 16⟩,
    ⟨0x27, 0b1111111110001101, 16⟩, ⟨0x28, 0b1111111110001110, 16⟩, ⟨0x29, 0b1111111110001111, 16⟩,
    ⟨0x2A, 0b1111111110010000, 16⟩, ⟨0x35, 0b1111111110010001, 16⟩, ⟨0x36, 0b1111111110010010, 16⟩]

/-- AC table 1, chroma, part 3 (30_encoding.md R111). -/
def acListed1c : List HuffEntry :=
  [
    ⟨0x37, 0b1111111110010011, 16⟩, ⟨0x38, 0b1111111110010100, 16⟩, ⟨0x39, 0b1111111110010101, 16⟩,
    ⟨0x3A, 0b1111111110010110, 16⟩, ⟨0x43, 0b1111111110010111, 16⟩, ⟨0x44, 0b1111111110011000, 16⟩,
    ⟨0x45, 0b1111111110011001, 16⟩, ⟨0x46, 0b1111111110011010, 16⟩, ⟨0x47, 0b1111111110011011, 16⟩,
    ⟨0x48, 0b1111111110011100, 16⟩, ⟨0x49, 0b1111111110011101, 16⟩, ⟨0x4A, 0b1111111110011110, 16⟩,
    ⟨0x53, 0b1111111110011111, 16⟩, ⟨0x54, 0b1111111110100000, 16⟩, ⟨0x55, 0b1111111110100001, 16⟩,
    ⟨0x56, 0b1111111110100010, 16⟩, ⟨0x57, 0b1111111110100011, 16⟩, ⟨0x58, 0b1111111110100100, 16⟩,
    ⟨0x59, 0b1111111110100101, 16⟩, ⟨0x5A, 0b1111111110100110, 16⟩, ⟨0x63, 0b1111111110100111, 16⟩,
    ⟨0x64, 0b1111111110101000, 16⟩, ⟨0x65, 0b1111111110101001, 16⟩, ⟨0x66, 0b1111111110101010, 16⟩,
    ⟨0x67, 0b1111111110101011, 16⟩, ⟨0x68, 0b1111111110101100, 16⟩, ⟨0x69, 0b1111111110101101, 16⟩]

/-- AC table 1, chroma, part 4 (30_encoding.md R111). -/
def acListed1d : List HuffEntry :=
  [
    ⟨0x6A, 0b1111111110101110, 16⟩, ⟨0x73, 0b1111111110101111, 16⟩, ⟨0x74, 0b1111111110110000, 16⟩,
    ⟨0x75, 0b1111111110110001, 16⟩, ⟨0x76, 0b1111111110110010, 16⟩, ⟨0x77, 0b1111111110110011, 16⟩,
    ⟨0x78, 0b1111111110110100, 16⟩, ⟨0x79, 0b1111111110110101, 16⟩, ⟨0x7A, 0b1111111110110110, 16⟩,
    ⟨0x82, 0b1111111110110111, 16⟩, ⟨0x83, 0b1111111110111000, 16⟩, ⟨0x84, 0b1111111110111001, 16⟩,
    ⟨0x85, 0b1111111110111010, 16⟩, ⟨0x86, 0b1111111110111011, 16⟩, ⟨0x87, 0b1111111110111100, 16⟩,
    ⟨0x88, 0b1111111110111101, 16⟩, ⟨0x89, 0b1111111110111110, 16⟩, ⟨0x8A, 0b1111111110111111, 16⟩,
    ⟨0x92, 0b1111111111000000, 16⟩, ⟨0x93, 0b1111111111000001, 16⟩, ⟨0x94, 0b1111111111000010, 16⟩,
    ⟨0x95, 0b1111111111000011, 16⟩, ⟨0x96, 0b1111111111000100, 16⟩, ⟨0x97, 0b1111111111000101, 16⟩,
    ⟨0x98, 0b1111111111000110, 16⟩, ⟨0x99, 0b1111111111000111, 16⟩, ⟨0x9A, 0b1111111111001000, 16⟩]

/-- AC table 1, chroma, part 5 (30_encoding.md R111). -/
def acListed1e : List HuffEntry :=
  [
    ⟨0xA2, 0b1111111111001001, 16⟩, ⟨0xA3, 0b1111111111001010, 16⟩, ⟨0xA4, 0b1111111111001011, 16⟩,
    ⟨0xA5, 0b1111111111001100, 16⟩, ⟨0xA6, 0b1111111111001101, 16⟩, ⟨0xA7, 0b1111111111001110, 16⟩,
    ⟨0xA8, 0b1111111111001111, 16⟩, ⟨0xA9, 0b1111111111010000, 16⟩, ⟨0xAA, 0b1111111111010001, 16⟩,
    ⟨0xB2, 0b1111111111010010, 16⟩, ⟨0xB3, 0b1111111111010011, 16⟩, ⟨0xB4, 0b1111111111010100, 16⟩,
    ⟨0xB5, 0b1111111111010101, 16⟩, ⟨0xB6, 0b1111111111010110, 16⟩, ⟨0xB7, 0b1111111111010111, 16⟩,
    ⟨0xB8, 0b1111111111011000, 16⟩, ⟨0xB9, 0b1111111111011001, 16⟩, ⟨0xBA, 0b1111111111011010, 16⟩,
    ⟨0xC2, 0b1111111111011011, 16⟩, ⟨0xC3, 0b1111111111011100, 16⟩, ⟨0xC4, 0b1111111111011101, 16⟩,
    ⟨0xC5, 0b1111111111011110, 16⟩, ⟨0xC6, 0b1111111111011111, 16⟩, ⟨0xC7, 0b1111111111100000, 16⟩,
    ⟨0xC8, 0b1111111111100001, 16⟩, ⟨0xC9, 0b1111111111100010, 16⟩, ⟨0xCA, 0b1111111111100011, 16⟩]

/-- AC table 1, chroma, part 6 (30_encoding.md R111). -/
def acListed1f : List HuffEntry :=
  [
    ⟨0xD2, 0b1111111111100100, 16⟩, ⟨0xD3, 0b1111111111100101, 16⟩, ⟨0xD4, 0b1111111111100110, 16⟩,
    ⟨0xD5, 0b1111111111100111, 16⟩, ⟨0xD6, 0b1111111111101000, 16⟩, ⟨0xD7, 0b1111111111101001, 16⟩,
    ⟨0xD8, 0b1111111111101010, 16⟩, ⟨0xD9, 0b1111111111101011, 16⟩, ⟨0xDA, 0b1111111111101100, 16⟩,
    ⟨0xE2, 0b1111111111101101, 16⟩, ⟨0xE3, 0b1111111111101110, 16⟩, ⟨0xE4, 0b1111111111101111, 16⟩,
    ⟨0xE5, 0b1111111111110000, 16⟩, ⟨0xE6, 0b1111111111110001, 16⟩, ⟨0xE7, 0b1111111111110010, 16⟩,
    ⟨0xE8, 0b1111111111110011, 16⟩, ⟨0xE9, 0b1111111111110100, 16⟩, ⟨0xEA, 0b1111111111110101, 16⟩,
    ⟨0xF2, 0b1111111111110110, 16⟩, ⟨0xF3, 0b1111111111110111, 16⟩, ⟨0xF4, 0b1111111111111000, 16⟩,
    ⟨0xF5, 0b1111111111111001, 16⟩, ⟨0xF6, 0b1111111111111010, 16⟩, ⟨0xF7, 0b1111111111111011, 16⟩,
    ⟨0xF8, 0b1111111111111100, 16⟩, ⟨0xF9, 0b1111111111111101, 16⟩, ⟨0xFA, 0b1111111111111110, 16⟩]

/-- AC table 1, chroma (30_encoding.md R111). -/
def acListed1 : List HuffEntry :=
  acListed1a ++ acListed1b ++ acListed1c ++ acListed1d ++ acListed1e ++ acListed1f

/-- The listed code table of class `cls` and id `t` (30_encoding.md R111). -/
def listedCodes (cls : HuffClass) (t : Fin 2) : List HuffEntry :=
  match cls with
  | .dc => if t = 0 then dcListed0 else dcListed1
  | .ac => if t = 0 then acListed0 else acListed1

end Sys2Proof.Machine
end

