-- ==== Sys2Proof/Machine/Stream.lean ====
section
/-! DEFINITION. Machine/Stream.lean: the output stream as the spec describes it, without the bit accumulator: the bit
string of the entropy-coded segment (spec/30_encoding.md R103 to R105), cut into bytes with byte stuffing (R112), and
the header (R94). No meaning calls these definitions: statements compare the meanings with them. -/

namespace Sys2Proof.Machine

/-- The `n` low bits of `v`, most significant first. -/
def bitsOf (v : Nat) : Nat → List Bool
  | 0 => []
  | n + 1 => v.testBit n :: bitsOf v n

/-- The number whose bits are the list, most significant first. -/
def natOfBits (bits : List Bool) : Nat := bits.foldl (fun a b => a * 2 + b.toNat) 0

/-- The bits that BITACC holds, oldest first (10_state.md R34, 47_bitstream.md R246). -/
def pendingBits (s : State) : List Bool := bitsOf s.bitacc.toNat s.bitcnt.val

/-- The low BITCNT bits of BITACC are the pending bits and the others are 0 (47_bitstream.md R246). -/
abbrev BitsClean (s : State) : Prop := s.bitacc.toNat < 2 ^ s.bitcnt.val

/-- A completed byte in the entropy-coded segment: 0xFF is followed by 0x00 (30_encoding.md R112). -/
def stuffed (b : Byte) : List Byte := if b = 0xFF then [b, 0x00] else [b]

/-- The bytes that `bits` complete after the pending bits `acc`, stuffed, and the bits that remain pending. -/
def packBits : (acc bits : List Bool) → List Byte × List Bool
  | acc, [] => ([], acc)
  | acc, b :: bs =>
    if acc.length + 1 = 8 then
      (stuffed (BitVec.ofNat 8 (natOfBits (acc ++ [b]))) ++ (packBits [] bs).1, (packBits [] bs).2)
    else packBits (acc ++ [b]) bs

/-- The bits of a symbol's Huffman code (30_encoding.md R106). -/
def huffBits (t : Fin 2) (cls : HuffClass) (sym : Nat) : List Bool :=
  match huffLookup cls t sym with
  | some e => bitsOf e.code e.len
  | none => []

/-- The amplitude bits of a value (30_encoding.md R105). -/
def ampBits (v : Int) : List Bool := bitsOf (amp v (cat v)) (cat v)

/-- The DC item of a block (30_encoding.md R103, R104). -/
def dcBits (t : Fin 2) (diff : Int) : List Bool := huffBits t .dc (cat diff) ++ ampBits diff

/-- An AC symbol of 30_encoding.md R104 with the coefficient it codes; ZRL and EOB code none. -/
inductive AcItem where
  | coef (run : Nat) (v : Int)
  | zrl
  | eob
deriving DecidableEq, Repr

/-- The items of a run of `r` zeros and a coefficient `v` that is not 0: a ZRL for every full 16 zeros (46_entropy.md R224). -/
def coefItems (r : Nat) (v : Int) : List AcItem := List.replicate (r / 16) .zrl ++ [.coef (r % 16) v]

/-- The items of the AC coefficients that remain after `r` zeros (46_entropy.md R224). -/
def acItems : List Int → Nat → List AcItem
  | [], r => if 0 < r then [.eob] else []
  | v :: vs, r => if v = 0 then acItems vs (r + 1) else coefItems r v ++ acItems vs 0

/-- The bits of an item (30_encoding.md R104). -/
def itemBits (t : Fin 2) : AcItem → List Bool
  | .coef r v => huffBits t .ac (r * 16 + cat v) ++ ampBits v
  | .zrl => huffBits t .ac 0xF0
  | .eob => huffBits t .ac 0x00

/-- The AC items of a block (30_encoding.md R103). -/
def acBits (t : Fin 2) (vs : List Int) : List Bool := (acItems vs 0).flatMap (itemBits t)

/-- The items before the first coefficient whose category has no code (above 10), after `r` zeros, with the ZRLs that precede
that coefficient (46_entropy.md R224, R225). -/
def itemsBeforeOverflow : List Int → Nat → List AcItem
  | [], _ => []
  | v :: vs, r =>
    if v = 0 then itemsBeforeOverflow vs (r + 1)
    else if 10 < cat v then List.replicate (r / 16) .zrl
    else coefItems r v ++ itemsBeforeOverflow vs 0

/-- What a decoder makes of items: the coefficients they stand for; EOB stands for zeros up to `n` coefficients in all
(30_encoding.md R104). -/
def expandItems (n : Nat) : List AcItem → List Int
  | [] => []
  | .eob :: _ => List.replicate n 0
  | .zrl :: rest => List.replicate 16 0 ++ expandItems (n - 16) rest
  | .coef r v :: rest => List.replicate r 0 ++ v :: expandItems (n - (r + 1)) rest

/-- The bytes of the segment that a marker micro-operation writes (47_bitstream.md R250 to R260); none for the others. -/
def segmentBytes (s : State) : Instr → Option (List Byte)
  | .wsoi => some [0xFF, 0xD8]
  | .wapp0 =>
    some [0xFF, 0xE0, 0x00, 0x10, 0x4A, 0x46, 0x49, 0x46, 0x00, 0x01, 0x01, 0x00, 0x00, 0x01, 0x00, 0x01, 0x00, 0x00]
  | .wdqt0 => some (([0xFF, 0xDB, 0x00, 0x43, 0x00] : List Byte) ++ s.qt[0].toList)
  | .wdqt1 => some (([0xFF, 0xDB, 0x00, 0x43, 0x01] : List Byte) ++ s.qt[1].toList)
  | .wsof0 =>
    some ([0xFF, 0xC0, 0x00, 0x11, 0x08, s.height.extractLsb' 8 8, s.height.extractLsb' 0 8, s.width.extractLsb' 8 8,
      s.width.extractLsb' 0 8, 0x03, 0x01, 0x22, 0x00, 0x02, 0x11, 0x01, 0x03, 0x11, 0x01])
  | .wdht0 =>
    some (([0xFF, 0xC4, 0x00, 0x1F, 0x00] : List Byte) ++ dcSpec0.bits.map (BitVec.ofNat 8) ++ dcSpec0.vals.map (BitVec.ofNat 8))
  | .wdht1 =>
    some (([0xFF, 0xC4, 0x00, 0xB5, 0x10] : List Byte) ++ acSpec0.bits.map (BitVec.ofNat 8) ++ acSpec0.vals.map (BitVec.ofNat 8))
  | .wdht2 =>
    some (([0xFF, 0xC4, 0x00, 0x1F, 0x01] : List Byte) ++ dcSpec1.bits.map (BitVec.ofNat 8) ++ dcSpec1.vals.map (BitVec.ofNat 8))
  | .wdht3 =>
    some (([0xFF, 0xC4, 0x00, 0xB5, 0x11] : List Byte) ++ acSpec1.bits.map (BitVec.ofNat 8) ++ acSpec1.vals.map (BitVec.ofNat 8))
  | .wsos => some [0xFF, 0xDA, 0x00, 0x0C, 0x03, 0x01, 0x00, 0x02, 0x11, 0x03, 0x11, 0x00, 0x3F, 0x00]
  | .weoi => some [0xFF, 0xD9]
  | .nop | .start | .chk | .init | .qtgen | .csc | .blkld | .fdct | .quant | .zz | .hdc | .hac | .flush | .fin => none

/-- The marker micro-operations of the header, in the order of 40_driver.md R134. -/
def headerInstrs : List Instr := [.wsoi, .wapp0, .wdqt0, .wdqt1, .wsof0, .wdht0, .wdht1, .wdht2, .wdht3, .wsos]

/-- The header of the file, segments 1 to 10 of 30_encoding.md R94. -/
def headerBytes (s : State) : List Byte := headerInstrs.flatMap fun i => (segmentBytes s i).getD []

end Sys2Proof.Machine
end

