-- ==== Sys2Proof/Safety.lean ====
section
/-! DEFINITION. Safety.lean: what holds of every reachable state, in the terms that statements use: the machine's
invariant, the invariant of the file in OUTMEM, the count of steps that remain, and when two encodes are the same. -/

namespace Sys2Proof.Machine

/-- The micro-operation that the CORE executes next: none unless STATE = BUSY (spec/10_state.md R32). -/
def running (s : State) : Option Instr :=
  if s.phase = .busy then
    match decodeUop s.uop with
    | .ok i => some i
    | .error _ => none
  else none

/-- The place of a micro-operation in the order of spec/40_driver.md R138; commands have no place. -/
def rank : Instr → Nat
  | .nop | .start | .chk => 0
  | .init => 1
  | .qtgen => 2
  | .wsoi => 3
  | .wapp0 => 4
  | .wdqt0 => 5
  | .wdqt1 => 6
  | .wsof0 => 7
  | .wdht0 => 8
  | .wdht1 => 9
  | .wdht2 => 10
  | .wdht3 => 11
  | .wsos => 12
  | .csc => 13
  | .blkld => 14
  | .fdct => 15
  | .quant => 16
  | .zz => 17
  | .hdc => 18
  | .hac => 19
  | .flush => 20
  | .weoi => 21
  | .fin => 22

/-- What CHK has checked (spec/40_driver.md R135). -/
abbrev ArgsOk (s : State) : Prop :=
  s.width ≠ 0 ∧ s.height ≠ 0 ∧ s.pixLen.toNat = bytesNeeded s ∧ bytesNeeded s ≤ s.params.pixBytes

/-- MX and MY name an MCU of the image (spec/10_state.md R32). -/
abbrev ScanOk (s : State) : Prop := s.mx.toNat < mcuW s ∧ s.my.toNat < mcuH s

/-- The range of a DC coefficient (spec/43_fdct.md R187, spec/44_quantizer.md R206). -/
abbrev DcRange (v : Coef) : Prop := -1024 ≤ v.toInt ∧ v.toInt ≤ 1016

/-- The range of an AC coefficient (spec/43_fdct.md R187, spec/44_quantizer.md R206). -/
abbrev AcRange (v : Coef) : Prop := -1020 ≤ v.toInt ∧ v.toInt ≤ 1020

/-- The ranges of a block whose coefficient 0 is the DC coefficient. -/
abbrev BlockOk (b : Vector Coef 64) : Prop := DcRange b[0] ∧ ∀ n : Fin 64, n ≠ 0 → AcRange b[n]

/-- The range of the predictors (spec/10_state.md R34). -/
abbrev PredOk (s : State) : Prop := ∀ c : Fin 3, DcRange s.pred[c]

/-- Every entry of QT is in 1 .. 255 (spec/10_state.md R40). -/
abbrev QtOk (s : State) : Prop := ∀ t : Fin 2, ∀ k : Fin 64, s.qt[t][k] ≠ 0

/-- Every listed address lies below the capacity. -/
abbrev KeysBelow (m : Memory) (n : Nat) : Prop := ∀ c ∈ m, c.1 < n

/-- What holds when `i` is the next micro-operation: everything that `i` and those after it read has been written by
this encode, within its range (spec/40_driver.md R143). -/
abbrev StageOk (i : Instr) (s : State) : Prop :=
  (1 ≤ rank i → ArgsOk s) ∧
  (2 ≤ rank i → ScanOk s ∧ PredOk s ∧ BitsClean s) ∧
  (2 ≤ rank i → rank i ≤ 12 → s.mx = 0 ∧ s.my = 0 ∧ s.bi = 0) ∧
  (3 ≤ rank i → QtOk s) ∧
  (i = .quant → BlockOk s.fblk) ∧
  (i = .zz → BlockOk s.qblk) ∧
  (i = .hdc ∨ i = .hac → BlockOk s.zblk) ∧
  (i = .qtgen ∨ segmentBytes s i ≠ none ∨ i = .fin → s.bitcnt = 0)

/-- THE INVARIANT: the memories are canonical and within their capacities, WP is within OUT_BYTES and every byte below it
has been written, ERR and ERR_INFO are 0 outside ERROR (spec/10_state.md R29), and while BUSY SEQ.UOP is a
micro-operation whose stage condition holds. -/
abbrev Inv (s : State) : Prop :=
  s.pixmem.wf = true ∧ s.outmem.wf = true ∧
  KeysBelow s.pixmem s.params.pixBytes ∧ KeysBelow s.outmem s.params.outBytes ∧
  s.wp.toNat ≤ s.params.outBytes ∧ (∀ a, a < s.wp.toNat → (s.outmem.read a).isSome = true) ∧
  (s.phase ≠ .error → s.err = 0 ∧ s.errInfo = 0) ∧
  (s.phase = .busy → (running s).isSome = true) ∧
  (∀ i ∈ running s, StageOk i s)

/-- The header's length before the segment that `i` writes: the offsets of spec/30_encoding.md R94. -/
def headerOffset : Instr → Nat
  | .nop | .start | .chk | .init | .qtgen | .wsoi => 0
  | .wapp0 => 2
  | .wdqt0 => 20
  | .wdqt1 => 89
  | .wsof0 => 158
  | .wdht0 => 177
  | .wdht1 => 210
  | .wdht2 => 393
  | .wdht3 => 426
  | .wsos => 609
  | .csc | .blkld | .fdct | .quant | .zz | .hdc | .hac | .flush | .weoi | .fin => 623

/-- The first `n` bytes of OUTMEM are those of the header (spec/30_encoding.md R94). -/
abbrev HeaderOk (n : Nat) (s : State) : Prop := ∀ k, k < n → some (outByte s k) = (headerBytes s)[k]?

/-- Within `lo .. hi-1` every 0xFF is followed by 0x00 (spec/47_bitstream.md R261). -/
abbrev Stuffed (s : State) (lo hi : Nat) : Prop :=
  ∀ a, a < hi → lo ≤ a → outByte s a = 0xFF → a + 1 < hi ∧ outByte s (a + 1) = 0x00

/-- OUTMEM holds a file from SOI to EOI whose entropy-coded segment is stuffed (spec/95_test_vectors.md P8-1, P8-3). -/
abbrev FileOk (s : State) : Prop :=
  625 ≤ s.wp.toNat ∧ outByte s 0 = 0xFF ∧ outByte s 1 = 0xD8 ∧ Stuffed s 623 (s.wp.toNat - 2) ∧
  outByte s (s.wp.toNat - 2) = 0xFF ∧ outByte s (s.wp.toNat - 1) = 0xD9

/-- THE INVARIANT OF THE FILE: while BUSY the header written so far is that of R94, and the entropy-coded segment written
so far is stuffed; at FIN and in DONE the file is complete. -/
abbrev FileInv (s : State) : Prop :=
  (∀ i ∈ running s,
    (3 ≤ rank i → HeaderOk (headerOffset i) s) ∧
    (2 ≤ rank i → rank i ≤ 12 → s.wp.toNat = headerOffset i) ∧
    (13 ≤ rank i → rank i ≤ 21 → 623 ≤ s.wp.toNat ∧ Stuffed s 623 s.wp.toNat) ∧
    (i = .fin → FileOk s)) ∧
  (s.phase = .done → FileOk s)

/-- The CORE steps that remain until FIN has been executed, when `i` is the next micro-operation (spec/40_driver.md
R138, spec/70_reset_and_hazards.md R316). -/
def stepsLeft (i : Instr) (s : State) : Nat :=
  let mcus := mcuW s * mcuH s
  let done := s.my.toNat * mcuW s + s.mx.toNat
  if rank i ≤ 12 then 16 + 37 * mcus - rank i
  else if rank i = 13 then 37 * (mcus - done) + 3
  else if rank i ≤ 19 then 37 * (mcus - done - 1) + (36 - 6 * s.bi.val - (rank i - 14)) + 3
  else 23 - rank i

/-- The next step is the CORE's: no event is pending, or the pending one is the CORE's. -/
abbrev CoreMoves (s : State) : Prop := s.sched = [] ∨ s.sched.head? = some .core

/-- The state from which the CORE's step starts: its own event, if pending, has been taken. -/
def coreState (s : State) : State := { s with sched := s.sched.tail }

/-- Two states hold the same inputs of an encode: the registers, the capacities and the R, G and B bytes of the image
(spec/40_driver.md R143). -/
abbrev SameInputs (s t : State) : Prop :=
  s.params = t.params ∧ s.width = t.width ∧ s.height = t.height ∧ s.quality = t.quality ∧ s.pixLen = t.pixLen ∧
  ∀ a, a < bytesNeeded s → a % 4 ≠ 3 → pixByte s a = pixByte t a

/-- Two states are at the same point of the same encode: the inputs agree, and so does everything that the encode has
written and will still read (spec/40_driver.md R143). -/
abbrev SameEncode (s t : State) : Prop :=
  SameInputs s t ∧ s.phase = t.phase ∧ s.uop = t.uop ∧ s.err = t.err ∧ s.errInfo = t.errInfo ∧
  ∀ i ∈ running s,
    (2 ≤ rank i → s.wp = t.wp ∧ s.bitacc = t.bitacc ∧ s.bitcnt = t.bitcnt ∧ s.pred = t.pred ∧
      s.mx = t.mx ∧ s.my = t.my ∧ s.bi = t.bi ∧ ∀ a, a < s.wp.toNat → outByte s a = outByte t a) ∧
    (3 ≤ rank i → s.qt = t.qt) ∧
    (14 ≤ rank i → rank i ≤ 19 → s.mcu = t.mcu) ∧
    (i = .fdct → s.sblk = t.sblk) ∧
    (i = .quant → s.fblk = t.fblk) ∧
    (i = .zz → s.qblk = t.qblk) ∧
    (i = .hdc ∨ i = .hac → s.zblk = t.zblk)

/-- The host cannot tell the results of two encodes apart: STATE, ERR, ERR_INFO, OUT_LEN and every OutRead agree. -/
abbrev SameResult (s t : State) : Prop :=
  s.phase = t.phase ∧ s.err = t.err ∧ s.errInfo = t.errInfo ∧ outLen s = outLen t ∧
  ∀ a, outReadValue s a = outReadValue t a

/-- `t` has appended `bytes` to OUTMEM at `s`'s WP: each of them can be read back where it went, every other address
reads as before, and WP has grown by their number (spec/20_memory.md R69, spec/47_bitstream.md R245). -/
abbrev Appended (s t : State) (bytes : List Byte) : Prop :=
  t.wp.toNat = s.wp.toNat + bytes.length ∧
  (∀ k, k < bytes.length → some (outByte t (s.wp.toNat + k)) = bytes[k]?) ∧
  ∀ a, a < s.wp.toNat ∨ s.wp.toNat + bytes.length ≤ a → outByte t a = outByte s a

/-- The rows of spec/40_driver.md R134 that name one micro-operation: all but HAC's and FIN's. -/
def nextInOrder : Instr → Option Instr
  | .chk => some .init
  | .init => some .qtgen
  | .qtgen => some .wsoi
  | .wsoi => some .wapp0
  | .wapp0 => some .wdqt0
  | .wdqt0 => some .wdqt1
  | .wdqt1 => some .wsof0
  | .wsof0 => some .wdht0
  | .wdht0 => some .wdht1
  | .wdht1 => some .wdht2
  | .wdht2 => some .wdht3
  | .wdht3 => some .wsos
  | .wsos => some .csc
  | .csc => some .blkld
  | .blkld => some .fdct
  | .fdct => some .quant
  | .quant => some .zz
  | .zz => some .hdc
  | .hdc => some .hac
  | .flush => some .weoi
  | .weoi => some .fin
  | .nop | .start | .hac | .fin => none

/-- The channel `ch` of the pixel that PixFetch(x, y) reads (spec/20_memory.md R68). -/
def pixelChannel (s : State) (x y ch : Nat) : Int :=
  ((pixByte s ((min y (s.height.toNat - 1) * s.width.toNat + min x (s.width.toNat - 1)) * 4 + ch)).toNat : Int)

/-- The sum of the channel `ch` over the 2x2 block of chroma position (cx, cy) (spec/41_color.md R166). -/
def channelSum (s : State) (cx cy ch : Nat) : Int :=
  let cxc := min cx ((s.width.toNat + 1) / 2 - 1)
  let cyc := min cy ((s.height.toNat + 1) / 2 - 1)
  pixelChannel s (2 * cxc) (2 * cyc) ch + pixelChannel s (2 * cxc + 1) (2 * cyc) ch +
    pixelChannel s (2 * cxc) (2 * cyc + 1) ch + pixelChannel s (2 * cxc + 1) (2 * cyc + 1) ch

/-- HAC ends block 5 at an MX or MY for which spec/40_driver.md R134 has no row. -/
abbrev NoAdvance (s : State) : Prop :=
  s.bi = 5 ∧ (mcuW s ≤ s.mx.toNat ∨ s.mx.toNat + 1 = mcuW s ∧ mcuH s ≤ s.my.toNat)

/-- CSC would fetch a byte that does not exist: the image is empty, or PIXMEM ends before the MCU's bottom right pixel. -/
abbrev FetchOutside (s : State) : Prop :=
  s.width = 0 ∨ s.height = 0 ∨ s.params.pixBytes ≤ pixAddr s (16 * s.mx.toNat + 15) (16 * s.my.toNat + 15) + 2

/-- A pending host access is the next step: neither a step of the CORE nor RESET. -/
abbrev HostMoves (s : State) : Prop := s.sched ≠ [] ∧ s.sched.head? ≠ some .core ∧ s.sched.head? ≠ some .reset

/-- `n` steps lead from `s` to `t`, and `t` is the first state after `s` that is not BUSY. -/
abbrev EndsIn (n : Nat) (s t : State) : Prop :=
  Host.Core.run Sys2Proof.core n s = .next t ∧ t.phase ≠ .busy ∧
  ∀ k u, k < n → Host.Core.run Sys2Proof.core k s = .next u → u.phase = .busy

/-- There is room in OUTMEM for `bytes`. -/
abbrev Room (s : State) (bytes : List Byte) : Prop := s.wp.toNat + bytes.length ≤ s.params.outBytes

/-- The DC item of the current block. -/
def hdcBits (s : State) : List Bool := dcBits (tabOf s.bi) (dcDiff s)

/-- The AC items of the current block. -/
def hacBits (s : State) : List Bool := acBits (tabOf s.bi) ((acCoefs s).map BitVec.toInt)

/-- The bits that HAC writes before it finds a category without a code (spec/46_entropy.md R225). -/
def hacBitsBefore (s : State) : List Bool :=
  (itemsBeforeOverflow ((acCoefs s).map BitVec.toInt) 0).flatMap (itemBits (tabOf s.bi))

/-- What writing `bits` after the pending bits appends to OUTMEM. -/
def packedBytes (s : State) (bits : List Bool) : List Byte := (packBits (pendingBits s) bits).1

/-- What writing `bits` after the pending bits leaves pending. -/
def packedRest (s : State) (bits : List Bool) : List Bool := (packBits (pendingBits s) bits).2

/-- `t` has written `bits` to the bitstream: the bytes they complete are appended and the rest is pending, with the unused
bits of BITACC 0 (spec/47_bitstream.md R246). -/
abbrev WroteBits (s t : State) (bits : List Bool) : Prop :=
  Appended s t (packedBytes s bits) ∧ pendingBits t = packedRest s bits ∧ BitsClean t

end Sys2Proof.Machine
end

