-- ==== Sys2Proof/Certificates/Slice0/Obligations.lean ====
section
/-! DEFINITION. Certificates/Slice0/Obligations.lean: the statements for the provers. A frame is written as an equation:
`t = { s with f := t.f, … }` says that every field not named is unchanged. -/

open Sys2Proof Sys2Proof.Machine

/-! ### Encodings -/

/-- Decoding and encoding agree in both directions, on every code of both formats (spec/30_encoding.md R91, R92). -/
def Obligations.DecodeAndEncodeAgree : Prop :=
  ∀ (c : Code) (i : Instr), i.wellFormed = true → (decode c = .ok i ↔ encode i = c)

/-- Words of the maps of R91 and R92 decode to what they stand for, and words outside them are rejected by name. -/
def Obligations.SampleWordsDecode : Prop :=
  decode (.command 0x00000000) = .ok .nop ∧ decode (.command 0x00000001) = .ok .start ∧
  decode (.command 0x00000101) = .error .zeroFieldNonZero ∧ decode (.command 0x000000FF) = .error .illegalOpcode ∧
  decode (.uop 0x01) = .ok .chk ∧ decode (.uop 0x14) = .ok .wsof0 ∧ decode (.uop 0x1A) = .ok .weoi ∧
  decode (.uop 0x26) = .ok .hac ∧ decode (.uop 0x3F) = .ok .fin ∧ decode (.uop 0x00) = .error .unusedMicroOpCode

/-! ### One step -/

/-- A STEP RUNS THE DECODED INSTRUCTION: the micro-operation SEQ.UOP when the CORE moves while BUSY, and the command
word that the host writes to CMD; the event is taken from `sched` and nothing else happens around the instruction.
THE MODEL'S CHOICE (log entry 2): that the list `sched` says who moves, and that the CORE moves when nothing is pending
(the first clause); spec/40_driver.md R133 leaves open which agent steps next. -/
def Obligations.StepRunsDecodedInstruction : Prop :=
  (∀ (s : State) (i : Instr), s.sched = [] → s.phase = .busy → decode (.uop s.uop) = .ok i → step s = exec i s) ∧
  (∀ (s : State) (rest : List Event) (i : Instr), s.sched = .core :: rest → s.phase = .busy →
    decode (.uop s.uop) = .ok i → step s = exec i { s with sched := rest }) ∧
  (∀ (s : State) (rest : List Event) (w : Word) (i : Instr), s.sched = .regWrite 0x00 w :: rest →
    decode (.command w) = .ok i → step s = exec i { s with sched := rest })

/-- Outside BUSY the CORE has no enabled step (spec/40_driver.md R133, spec/70_reset_and_hazards.md R318). How the model
shows it is THE MODEL'S CHOICE: with nothing pending a step leaves the state as it is (log entry 2), and a CORE event is
taken from `sched` and changes nothing else (log entry 3). -/
def Obligations.QuiescentOutsideBusy : Prop :=
  ∀ s : State, s.phase ≠ .busy →
    (s.sched = [] → step s = .next s) ∧
    (∀ rest, s.sched = .core :: rest → step s = .next { s with sched := rest })

/-- A write to CMD is refused when the word is illegal, in any state, or when it is START while BUSY: BADCMD becomes 1
and nothing else changes; BADCMD then stays 1 until the next accepted START or reset (spec/40_driver.md R132). -/
def Obligations.RefusedCommandOnlySetsBadcmd : Prop :=
  (∀ (s : State) (rest : List Event) (w : Word), s.sched = .regWrite 0x00 w :: rest →
    (2 ≤ w.toNat ∨ w.toNat = 1 ∧ s.phase = .busy) → step s = .next { s with sched := rest, badcmd := true }) ∧
  (∀ s t : State, step s = .next t → s.badcmd = true → t.badcmd = false →
    s.sched.head? = some .reset ∨ s.sched.head? = some (.regWrite 0x00 0x00000001) ∧ s.phase ≠ .busy)

/-- RESET sets every element of R310's list, leaves the buffers, QT and the memories alone, and leaves the CORE without
an enabled step (spec/70_reset_and_hazards.md R310). -/
def Obligations.ResetEventSetsResetValues : Prop :=
  ∀ (s : State) (rest : List Event), s.sched = .reset :: rest →
    ∃ t, step s = .next t ∧
      t = { s with
        sched := rest, phase := .idle, badcmd := false, uop := 0, mx := 0, my := 0, bi := 0, width := 0, height := 0,
        quality := 70, pixLen := 0, err := 0, errInfo := 0, pred := t.pred, bitacc := 0, bitcnt := 0, wp := 0 } ∧
      (∀ c : Fin 3, t.pred[c] = 0) ∧ statusWord t = 0 ∧ outLen t = 0 ∧ (∀ a, outReadValue t a = 0x00) ∧
      running t = none

/-- The state right after power-on holds the values that R45 gives; the capacities, the buffers and QT are the model's
choices (log entries 1, 5, 6) and are not stated. -/
def Obligations.PowerOnStateHasResetValues : Prop :=
  State.reset.phase = .idle ∧ State.reset.badcmd = false ∧ State.reset.uop = 0 ∧ State.reset.mx = 0 ∧
  State.reset.my = 0 ∧ State.reset.bi = 0 ∧ State.reset.width = 0 ∧ State.reset.height = 0 ∧ State.reset.quality = 70 ∧
  State.reset.pixLen = 0 ∧ outLen State.reset = 0 ∧ State.reset.err = 0 ∧ State.reset.errInfo = 0 ∧
  (∀ c : Fin 3, State.reset.pred[c] = 0) ∧ State.reset.bitacc = 0 ∧ State.reset.bitcnt = 0 ∧ State.reset.wp = 0

/-! ### The host's accesses -/

/-- Host writes to registers: the writable bits outside BUSY, nothing while BUSY, nothing at any other offset
(spec/10_state.md R24 to R27, R31, spec/20_memory.md R66). For an offset that is not a multiple of 4, which R61 and R63
exclude, "nothing" is THE MODEL'S CHOICE (log entry 15, U7). -/
def Obligations.HostRegisterWrites : Prop :=
  ∀ (s : State) (rest : List Event) (off : BitVec 12) (v : Word), s.sched = .regWrite off v :: rest → off ≠ 0x00 →
    (s.phase = .busy → step s = .next { s with sched := rest }) ∧
    (s.phase ≠ .busy →
      (off = 0x08 → step s = .next { s with sched := rest, width := v.extractLsb' 0 16 }) ∧
      (off = 0x0C → step s = .next { s with sched := rest, height := v.extractLsb' 0 16 }) ∧
      (off = 0x10 → step s = .next { s with sched := rest, quality := v.extractLsb' 0 8 }) ∧
      (off = 0x14 → step s = .next { s with sched := rest, pixLen := v }) ∧
      (off ≠ 0x08 → off ≠ 0x0C → off ≠ 0x10 → off ≠ 0x14 → step s = .next { s with sched := rest }))

/-- Host register reads return one word and change nothing of JENC, in any state; every field stands where
spec/10_state.md R21 to R31 put it, STATE with the values of R23, and CMD and the unmapped offsets read 0. For an offset that
is not a multiple of 4, which R61 and R63 exclude, reading 0 (the last clause) is THE MODEL'S CHOICE (log entry 15, U7);
that the value is kept in `reads` is log entry 4. -/
def Obligations.HostRegisterReads : Prop :=
  ∀ (s : State) (rest : List Event) (off : BitVec 12), s.sched = .regRead off :: rest →
    ∃ v : Word, step s = .next { s with sched := rest, reads := .word v :: s.reads } ∧
      (off = 0x04 →
        v.extractLsb' 0 2 = (match s.phase with | .idle => 0 | .busy => 1 | .done => 2 | .error => 3) ∧
        v.getLsbD 2 = s.badcmd ∧ v.extractLsb' 3 5 = 0 ∧
        v.extractLsb' 8 8 = (if s.phase = .busy then s.uop else 0) ∧ v.extractLsb' 16 16 = 0) ∧
      (off = 0x08 → v.toNat = s.width.toNat) ∧ (off = 0x0C → v.toNat = s.height.toNat) ∧
      (off = 0x10 → v.toNat = s.quality.toNat) ∧ (off = 0x14 → v = s.pixLen) ∧
      (off = 0x18 → v = if s.phase = .done then s.wp else 0) ∧ (off = 0x1C → v = s.err) ∧
      (off = 0x20 → v = s.errInfo) ∧
      (offsetAligned off = true → off = 0x00 ∨ 0x20 < off.toNat → v = 0) ∧
      (offsetAligned off = false → v = 0)

/-- PixWrite stores one byte of PIXMEM outside BUSY, and no other byte changes; while BUSY, and outside PIXMEM, it does
nothing. PixRead returns the byte, and 0x00 outside PIXMEM, in every state (spec/20_memory.md R61, R66). -/
def Obligations.HostPixelAccesses : Prop :=
  (∀ (s : State) (rest : List Event) (a : Nat) (b : Byte), s.sched = .pixWrite a b :: rest →
    ∃ t, step s = .next t ∧ t = { s with sched := rest, pixmem := t.pixmem } ∧
      (s.phase ≠ .busy → a < s.params.pixBytes →
        pixByte t a = b ∧ ∀ x, x ≠ a → pixByte t x = pixByte s x) ∧
      (s.phase = .busy ∨ s.params.pixBytes ≤ a → t.pixmem = s.pixmem)) ∧
  (∀ (s : State) (rest : List Event) (a : Nat), s.sched = .pixRead a :: rest →
    step s = .next { s with
      sched := rest, reads := .byte (if a < s.params.pixBytes then pixByte s a else 0x00) :: s.reads })

/-- OutRead returns the byte of OUTMEM below OUT_LEN and 0x00 from OUT_LEN on, so nothing of OUTMEM is visible in IDLE,
BUSY and ERROR; it changes nothing (spec/20_memory.md R67). -/
def Obligations.OutReadIsGated : Prop :=
  ∀ (s : State) (rest : List Event) (a : Nat), s.sched = .outRead a :: rest → s.wp.toNat ≤ s.params.outBytes →
    (s.phase = .done → a < s.wp.toNat →
      step s = .next { s with sched := rest, reads := .byte (outByte s a) :: s.reads }) ∧
    (s.phase ≠ .done ∨ s.wp.toNat ≤ a →
      step s = .next { s with sched := rest, reads := .byte 0x00 :: s.reads })

/-- While BUSY host writes to WIDTH, HEIGHT, QUALITY, PIX_LEN and PIXMEM change nothing, and no step but RESET changes these
inputs (spec/20_memory.md R66). -/
def Obligations.InputsAreConstantWhileBusy : Prop :=
  (∀ (s : State) (rest : List Event) (off : BitVec 12) (v : Word), s.phase = .busy → s.sched = .regWrite off v :: rest →
    offsetAligned off = true → off ≠ 0x00 → step s = .next { s with sched := rest }) ∧
  (∀ (s : State) (rest : List Event) (a : Nat) (b : Byte), s.phase = .busy → s.sched = .pixWrite a b :: rest →
    step s = .next { s with sched := rest }) ∧
  (∀ s t : State, s.phase = .busy → s.sched.head? ≠ some .reset → step s = .next t →
    t.params = s.params ∧ t.width = s.width ∧ t.height = s.height ∧ t.quality = s.quality ∧ t.pixLen = s.pixLen ∧
    t.pixmem = s.pixmem)

/-- The transitions of STATE: to BUSY by an accepted START, from BUSY to DONE by FIN, from BUSY to ERROR by error entry of
the CORE's step, to IDLE by RESET; there are no others (spec/70_reset_and_hazards.md R319). -/
def Obligations.StateTransitions : Prop :=
  ∀ s t : State, step s = .next t → t.phase ≠ s.phase →
    (t.phase = .busy ∧ s.phase ≠ .busy ∧ s.sched.head? = some (.regWrite 0x00 0x00000001)) ∨
    (t.phase = .done ∧ s.phase = .busy ∧ CoreMoves s ∧ running s = some .fin) ∨
    (t.phase = .error ∧ s.phase = .busy ∧ CoreMoves s) ∨
    (t.phase = .idle ∧ s.sched.head? = some .reset)

/-! ### The driver -/

/-- NOP, the command word 0, changes nothing, in every state (spec/40_driver.md R130). -/
def Obligations.NopChangesNothing : Prop :=
  decode (.command 0x00000000) = .ok .nop ∧ ∀ s : State, exec .nop s = .next s

/-- START, the command word 1: from IDLE, DONE or ERROR it begins an encode and discards the previous output; while BUSY it is refused
(spec/40_driver.md R131). -/
def Obligations.StartBeginsAnEncode : Prop :=
  decode (.command 0x00000001) = .ok .start ∧ ∀ s : State,
    (s.phase ≠ .busy →
      exec .start s =
        .next { s with phase := .busy, badcmd := false, err := 0x00000000, errInfo := 0x00000000, uop := 0x01 }) ∧
    (s.phase = .busy → exec .start s = .next { s with badcmd := true }) ∧
    (∀ t, exec .start s = .next t → outLen t = 0 ∧ ∀ a, outReadValue t a = 0x00)

/-- CHK: valid arguments change nothing but SEQ.UOP; else the first check that fails, in the order W, H, PIX_LEN, capacity,
is reported: ERR = 0x001F0101 + SUB*16, ERR_INFO = 0, STATE = ERROR, and nothing else changes (spec/40_driver.md R135). -/
def Obligations.ChkValidatesTheArguments : Prop :=
  ∀ s : State,
    (s.width ≠ 0 → s.height ≠ 0 → s.pixLen.toNat = s.width.toNat * s.height.toNat * 4 →
      s.width.toNat * s.height.toNat * 4 ≤ s.params.pixBytes → exec .chk s = .next { s with uop := 0x02 }) ∧
    (¬ (s.width ≠ 0 ∧ s.height ≠ 0 ∧ s.pixLen.toNat = s.width.toNat * s.height.toNat * 4 ∧
        s.width.toNat * s.height.toNat * 4 ≤ s.params.pixBytes) →
      exec .chk s =
        .next { s with
          phase := .error, errInfo := 0,
          err :=
            if s.width = 0 then 0x001F0111
            else if s.height = 0 then 0x001F0121
            else if s.pixLen.toNat ≠ s.width.toNat * s.height.toNat * 4 then 0x001F0131
            else 0x001F0141 })

/-- INIT clears WP, BITACC, BITCNT, the three predictors and MX, MY, BI, and nothing else but SEQ.UOP changes
(spec/40_driver.md R136). -/
def Obligations.InitClearsTheEncodeState : Prop :=
  ∀ s : State, ∃ t, exec .init s = .next t ∧
    t = { s with
      wp := 0, bitacc := 0, bitcnt := 0, pred := t.pred, mx := 0, my := 0, bi := 0, uop := 0x03 } ∧
    ∀ c : Fin 3, t.pred[c] = 0

/-- FIN makes the output visible and changes nothing but STATE (spec/40_driver.md R137). -/
def Obligations.FinCommitsTheOutput : Prop :=
  ∀ s : State, ∃ t, exec .fin s = .next t ∧ t = { s with phase := .done } ∧ outLen t = s.wp ∧
    ∀ a, a < s.wp.toNat → a < s.params.outBytes → outReadValue t a = outByte s a

/-- Whatever micro-operation raises an error, error entry records CODE, SUB, STAGE, COMP, BLK, MX and MY as R281 and R288
say (SUB 7:4 and CODE 3:0 of ERR are its low byte), and the inputs, BADCMD, SEQ, QT and the block buffers are unchanged
(spec/60_exceptions.md R281, R285, R288). -/
def Obligations.ErrorEntryRecordsTheContext : Prop :=
  ∀ (i : Instr) (s t : State), s.phase = .busy → exec i s = .next t → t.phase = .error →
    t = { s with
      phase := .error, err := t.err, errInfo := t.errInfo, outmem := t.outmem, wp := t.wp, bitacc := t.bitacc,
      bitcnt := t.bitcnt } ∧
    ((i = .chk ∧ t.err.extractLsb' 0 8 ∈ ([0x11, 0x21, 0x31, 0x41] : List Byte)) ∨
      (i = .hdc ∧ t.err.extractLsb' 0 8 ∈ ([0x13, 0x14] : List Byte)) ∨
      (i = .hac ∧ t.err.extractLsb' 0 8 ∈ ([0x23, 0x14] : List Byte)) ∨
      (i ∈ [.wsoi, .wapp0, .wdqt0, .wdqt1, .wsof0, .wdht0, .wdht1, .wdht2, .wdht3, .wsos, .flush, .weoi] ∧
        t.err.extractLsb' 0 8 = 0x14)) ∧
    t.err.extractLsb' 8 8 = stageCode i ∧ t.err.extractLsb' 21 11 = 0 ∧
    (inBlock i = true →
      t.err.extractLsb' 16 2 = (if s.bi.val < 4 then 0 else if s.bi.val = 4 then 1 else 2) ∧
      t.err.extractLsb' 18 3 = BitVec.ofNat 3 s.bi.val ∧
      t.errInfo.toNat = s.my.toNat * 65536 + s.mx.toNat) ∧
    (inBlock i = false → t.err.extractLsb' 16 2 = 3 ∧ t.err.extractLsb' 18 3 = 7 ∧ t.errInfo = 0) ∧
    outLen t = 0 ∧ ∀ a, outReadValue t a = 0x00

/-- Where the machine stops, and nowhere else, all of it THE MODEL'S CHOICE (log entries 10, 11, 14): CSC exactly where a
fetch would leave the image or PIXMEM, HAC only at the end of a block 5 that lies outside the image, the CORE's step
exactly on a code that is no micro-operation; every other instruction answers a next state in every state, and every
other step runs an instruction or answers a next state. -/
def Obligations.StopsAreTheNamedOnes : Prop :=
  (∀ s : State,
    (FetchOutside s → exec .csc s = .fault .pixFetchOutside) ∧ (¬ FetchOutside s → ∃ t, exec .csc s = .next t)) ∧
  (∀ s : State,
    (∃ t, exec .hac s = .next t) ∨ (NoAdvance s ∧ exec .hac s = .fault .sequencerOutside)) ∧
  (∀ s : State, NoAdvance s → BitsClean s → (∀ v ∈ acCoefs s, cat v.toInt ≤ 10) →
    Room s (packedBytes s (hacBits s)) → exec .hac s = .fault .sequencerOutside) ∧
  (∀ (i : Instr) (s : State), i ≠ .csc → i ≠ .hac → ∃ t, exec i s = .next t) ∧
  (∀ (s : State) (e : DecodeReject), CoreMoves s → s.phase = .busy → decode (.uop s.uop) = .error e →
    step s = .refused .unusedMicroOp) ∧
  (∀ s : State, (∃ t, step s = .next t) ∨
    (CoreMoves s ∧ running s = some .csc ∧ FetchOutside s ∧ step s = .fault .pixFetchOutside) ∨
    (CoreMoves s ∧ running s = some .hac ∧ NoAdvance s ∧ step s = .fault .sequencerOutside) ∨
    (CoreMoves s ∧ s.phase = .busy ∧ running s = none ∧ step s = .refused .unusedMicroOp))

/-! ### The colour transform and the block splitter -/

/-- CSC fills MCUBUF with the samples of the MCU at (MX, MY), each the exact integer of R161 to R163, and changes nothing
else but SEQ.UOP and SEQ.BI (spec/41_color.md R165, R166). -/
def Obligations.CscConvertsTheMcu : Prop :=
  ∀ s : State, s.width ≠ 0 → s.height ≠ 0 → s.width.toNat * s.height.toNat * 4 ≤ s.params.pixBytes →
    ∃ t, exec .csc s = .next t ∧ t = { s with mcu := t.mcu, uop := 0x21, bi := 0 } ∧
      (∀ j i : Fin 16,
        let x := 16 * s.mx.toNat + i.val
        let y := 16 * s.my.toNat + j.val
        ((t.mcu.y[j][i]).toNat : Int) =
          (19595 * pixelChannel s x y 0 + 38470 * pixelChannel s x y 1 +
            7471 * pixelChannel s x y 2 + 32768) / 65536) ∧
      (∀ j i : Fin 8,
        let cx := 8 * s.mx.toNat + i.val
        let cy := 8 * s.my.toNat + j.val
        ((t.mcu.cb[j][i]).toNat : Int) =
          (-11059 * channelSum s cx cy 0 - 21709 * channelSum s cx cy 1 +
            32768 * channelSum s cx cy 2 + 33554432 + 131071) / 262144 ∧
        ((t.mcu.cr[j][i]).toNat : Int) =
          (32768 * channelSum s cx cy 0 - 27439 * channelSum s cx cy 1 -
            5329 * channelSum s cx cy 2 + 33554432 + 131071) / 262144)

/-- Y, Cb and Cr lie in 0 .. 255, the intermediate sums fit in 27 bits unsigned, and a grey block gives (g, 128, 128)
(spec/41_color.md R164). -/
def Obligations.ColourSamplesNeedNoClamp : Prop :=
  (∀ r g b : Int, 0 ≤ r → r ≤ 255 → 0 ≤ g → g ≤ 255 → 0 ≤ b → b ≤ 255 →
    0 ≤ lumaOf r g b ∧ lumaOf r g b ≤ 255 ∧ 0 ≤ 19595 * r + 38470 * g + 7471 * b + 32768 ∧
    19595 * r + 38470 * g + 7471 * b + 32768 < 2 ^ 27) ∧
  (∀ r g b : Int, 0 ≤ r → r ≤ 1020 → 0 ≤ g → g ≤ 1020 → 0 ≤ b → b ≤ 1020 →
    0 ≤ cbOf r g b ∧ cbOf r g b ≤ 255 ∧ 0 ≤ crOf r g b ∧ crOf r g b ≤ 255 ∧
    0 ≤ -11059 * r - 21709 * g + 32768 * b + 33554432 + 131071 ∧
    -11059 * r - 21709 * g + 32768 * b + 33554432 + 131071 < 2 ^ 27 ∧
    0 ≤ 32768 * r - 27439 * g - 5329 * b + 33554432 + 131071 ∧
    32768 * r - 27439 * g - 5329 * b + 33554432 + 131071 < 2 ^ 27) ∧
  (∀ g : Int, 0 ≤ g → g ≤ 255 →
    lumaOf g g g = g ∧ cbOf (4 * g) (4 * g) (4 * g) = 128 ∧ crOf (4 * g) (4 * g) (4 * g) = 128)

/-- Alpha has no influence: with any other alpha bytes CSC gives the same MCU (spec/41_color.md R160). -/
def Obligations.AlphaHasNoInfluence : Prop :=
  ∀ (s s' : State) (m : Memory),
    (∀ a, a % 4 ≠ 3 → pixByte { s with pixmem := m } a = pixByte s a) → exec .csc s = .next s' →
    exec .csc { s with pixmem := m } = .next { s' with pixmem := m }

/-- After CHK has passed every fetch lies inside the image and inside PIXMEM (spec/20_memory.md R68). -/
def Obligations.FetchesAreInsideAfterChk : Prop :=
  ∀ s : State, ArgsOk s →
    mcuFetchInside s = true ∧
    ∀ x y : Nat, pixAddr s x y + 3 ≤ bytesNeeded s - 1 ∧ bytesNeeded s - 1 < s.params.pixBytes

/-- BLKLD copies block BI of MCUBUF into SBLK in natural order, and changes nothing else but SEQ.UOP
(spec/42_block_splitter.md R175). -/
def Obligations.BlkldCopiesTheBlock : Prop :=
  ∀ s : State, ∃ t, exec .blkld s = .next t ∧ t = { s with sblk := t.sblk, uop := 0x22 } ∧
    ∀ y x : Fin 8,
      t.sblk[8 * y.val + x.val] =
        if s.bi = 4 then s.mcu.cb[y][x]
        else if s.bi = 5 then s.mcu.cr[y][x]
        else s.mcu.y[y.val + 8 * (s.bi.val / 2 % 2)][x.val + 8 * (s.bi.val % 2)]

/-- Block BI of the MCU at (MX, MY) holds the plane samples of spec/42_block_splitter.md R176. -/
def Obligations.BlockHoldsPlaneSamples : Prop :=
  ∀ (s s1 t : State) (b : Fin 6), exec .csc s = .next s1 → exec .blkld { s1 with bi := b } = .next t →
    ∀ y x : Fin 8,
      t.sblk[8 * y.val + x.val] =
        if b = 4 then cbSamp s (8 * s.mx.toNat + x.val) (8 * s.my.toNat + y.val)
        else if b = 5 then crSamp s (8 * s.mx.toNat + x.val) (8 * s.my.toNat + y.val)
        else ySamp s (16 * s.mx.toNat + 8 * (b.val % 2) + x.val) (16 * s.my.toNat + 8 * (b.val / 2 % 2) + y.val)

/-! ### The forward DCT -/

/-- FDCT stores the exact integers of R186 in FBLK, none of them wraps in s12, and nothing else but SEQ.UOP changes
(spec/43_fdct.md R186). -/
def Obligations.FdctComputesTheTransform : Prop :=
  ∀ s : State, ∃ t, exec .fdct s = .next t ∧ t = { s with fblk := t.fblk, uop := 0x23 } ∧
    ∀ v u : Fin 8,
      (t.fblk[8 * v.val + u.val]).toInt =
        (sum8 (fun y =>
            (sum8 (fun x => ((s.sblk[8 * y.val + x.val].toNat : Int) - 128) * dctTable[u][x]) + 512) / 1024 *
              dctTable[v][y]) + 131072) / 262144

/-- The ranges of FBLK: the DC coefficient in -1024 .. 1016, every other within 1020 (spec/43_fdct.md R187). -/
def Obligations.FdctRanges : Prop :=
  ∀ b : Vector Byte 64, BlockOk (forwardDct b)

/-- A flat block has no AC coefficient, and its DC coefficient is R189's, within 1 of 8*(g - 128) (spec/43_fdct.md R189). -/
def Obligations.FlatBlockHasOnlyDc : Prop :=
  ∀ (s : State) (g : Byte), (∀ n : Fin 64, s.sblk[n] = g) → ∃ t, exec .fdct s = .next t ∧
    (∀ n : Fin 64, n ≠ 0 → t.fblk[n] = 0) ∧
    (t.fblk[0]).toInt = (8 * ((((g.toNat : Int) - 128) * 46344 + 512) / 1024) * 5793 + 131072) / 262144 ∧
    8 * ((g.toNat : Int) - 128) - 1 ≤ (t.fblk[0]).toInt ∧ (t.fblk[0]).toInt ≤ 8 * ((g.toNat : Int) - 128) + 1

/-! ### The quantizer and the zig-zag reorderer -/

/-- QTGEN derives both tables from QUALITY, every entry in 1 .. 255, and changes nothing else but SEQ.UOP
(spec/44_quantizer.md R200 to R202). -/
def Obligations.QtgenDerivesTheTables : Prop :=
  ∀ s : State, ∃ t, exec .qtgen s = .next t ∧ t = { s with qt := t.qt, uop := 0x10 } ∧
    ∀ (k : Fin 64),
      let qe := min (max s.quality.toNat 1) 100
      let scale := if qe < 50 then 5000 / qe else 200 - 2 * qe
      (t.qt[0][k]).toNat = min (max ((baseLuma[zzTable[k]] * scale + 50) / 100) 1) 255 ∧
      (t.qt[1][k]).toNat = min (max ((baseChroma[zzTable[k]] * scale + 50) / 100) 1) 255

/-- A higher QUALITY never gives a larger table entry (spec/95_test_vectors.md P8-4: what does hold). -/
def Obligations.TablesFallWithQuality : Prop :=
  ∀ (q q' : BitVec 8) (t : Fin 2) (k : Fin 64), q.toNat ≤ q'.toNat →
    ((quantTables q')[t][k]).toNat ≤ ((quantTables q)[t][k]).toNat

/-- QUANT divides each coefficient by the divisor at its zig-zag position and changes nothing else but SEQ.UOP
(spec/44_quantizer.md R205). R205 says that a divisor is never 0: that QUANT completes for such a QT too, with that one
quotient open, is THE MODEL'S CHOICE (log entry 13). -/
def Obligations.QuantDividesTheBlock : Prop :=
  ∀ s : State, ∃ t, exec .quant s = .next t ∧ t = { s with qblk := t.qblk, uop := 0x24 } ∧
    ∀ n : Fin 64,
      let d := (s.qt[(if s.bi.val < 4 then 0 else 1 : Fin 2)][zzInvTable[n]]).toNat
      let f := (s.fblk[n]).toInt
      d ≠ 0 →
        (0 ≤ f → (t.qblk[n]).toInt = ((f.natAbs + d / 2) / d : Nat)) ∧
        (f < 0 → (t.qblk[n]).toInt = -(((f.natAbs + d / 2) / d : Nat) : Int))

/-- The quotient is the nearest integer with ties away from zero, keeps the sign, and is no larger than the coefficient
(spec/44_quantizer.md R205, R206). -/
def Obligations.QuotientIsNearestTiesAway : Prop :=
  ∀ (f : Coef) (d : Byte), d ≠ 0 →
    let q := (quantize f d).toInt
    2 * (f.toInt - q * d.toNat).natAbs ≤ d.toNat ∧
    (2 * (f.toInt - q * d.toNat).natAbs = d.toNat → f.toInt.natAbs < q.natAbs * d.toNat) ∧
    0 ≤ q * f.toInt ∧ q.natAbs ≤ f.toInt.natAbs

/-- ZZ permutes the block by the zig-zag table and changes nothing else but SEQ.UOP (spec/45_zigzag.md R216). -/
def Obligations.ZzReordersTheBlock : Prop :=
  ∀ s : State, ∃ t, exec .zz s = .next t ∧ t = { s with zblk := t.zblk, uop := 0x25 } ∧
    (∀ k : Fin 64, t.zblk[k] = s.qblk[zzTable[k]]) ∧ t.zblk[0] = s.qblk[0] ∧
    t.zblk.toList.Perm s.qblk.toList

/-- The zig-zag table starts at 0, ends at 63 and visits the anti-diagonals in the order of R215, up on the even ones and
down on the odd ones; R217's table is its inverse (spec/45_zigzag.md R215, R217). -/
def Obligations.ZigzagTablesAreInverse : Prop :=
  zzTable[0] = 0 ∧ zzTable[63] = 63 ∧ (∀ k : Fin 64, zzInvTable[zzTable[k]] = k) ∧ (∀ n : Fin 64, zzTable[zzInvTable[n]] = n) ∧
  ∀ k l : Fin 64, k.val + 1 = l.val →
    let v := (zzTable[k]).val / 8
    let u := (zzTable[k]).val % 8
    let v' := (zzTable[l]).val / 8
    let u' := (zzTable[l]).val % 8
    if (u + v) % 2 = 0 then
      (v ≠ 0 ∧ u ≠ 7 ∧ v' + 1 = v ∧ u' = u + 1) ∨ (u = 7 ∧ v' = v + 1 ∧ u' = 7) ∨ (v = 0 ∧ u ≠ 7 ∧ v' = 0 ∧ u' = u + 1)
    else
      (u ≠ 0 ∧ v ≠ 7 ∧ v' = v + 1 ∧ u' + 1 = u) ∨ (v = 7 ∧ v' = 7 ∧ u' = u + 1) ∨ (u = 0 ∧ v ≠ 7 ∧ v' = v + 1 ∧ u' = 0)

/-! ### The entropy coder -/

/-- The category is the number of bits of the magnitude (spec/46_entropy.md R220). -/
def Obligations.CategoryBoundsTheMagnitude : Prop :=
  ∀ (v : Int) (n : Nat), cat v = n ↔ (v = 0 ∧ n = 0) ∨ (1 ≤ n ∧ 2 ^ (n - 1) ≤ v.natAbs ∧ v.natAbs < 2 ^ n)

/-- The amplitude bits of a value that is not 0: the value, or its sum with 2^s - 1, which is the low bits of v - 1; the top
bit is the sign; a decoder recovers the value (spec/30_encoding.md R105). -/
def Obligations.AmplitudeBitsDecode : Prop :=
  ∀ v : Int, v ≠ 0 →
    (0 < v → (amp v (cat v) : Int) = v) ∧
    (v < 0 → (amp v (cat v) : Int) = v + 2 ^ cat v - 1 ∧ (amp v (cat v) : Int) = (v - 1) % 2 ^ cat v) ∧
    amp v (cat v) < 2 ^ cat v ∧ ampDecode (cat v) (amp v (cat v)) = v ∧
    (0 < v → (amp v (cat v)).testBit (cat v - 1) = true) ∧ (v < 0 → (amp v (cat v)).testBit (cat v - 1) = false)

/-- The four code tables are those of R111, row by row: symbol, code and length; each listed symbol is looked up as its
row, and no other symbol has a code. Each table is a prefix code with lengths 2 .. 16, and no code consists only of 1 bits
(spec/30_encoding.md R111, R106). -/
def Obligations.HuffmanCodesAreListedAndPrefixFree : Prop :=
  ∀ (cls : HuffClass) (t : Fin 2),
    (huffSpec cls t).codes = listedCodes cls t ∧
    (∀ e ∈ listedCodes cls t, huffLookup cls t e.sym = some e) ∧
    (∀ sym e, huffLookup cls t sym = some e → e ∈ listedCodes cls t ∧ e.sym = sym) ∧
    ((huffSpec cls t).codes.Pairwise fun e f =>
      ¬ (bitsOf e.code e.len <+: bitsOf f.code f.len) ∧ ¬ (bitsOf f.code f.len <+: bitsOf e.code e.len)) ∧
    ∀ e ∈ (huffSpec cls t).codes, 2 ≤ e.len ∧ e.len ≤ 16 ∧ e.code < 2 ^ e.len ∧ e.code + 1 ≠ 2 ^ e.len

/-- HDC writes the DC item of the block, updates the predictor of its component, and changes nothing else but SEQ.UOP
(spec/46_entropy.md R223). -/
def Obligations.HdcCodesTheDcCoefficient : Prop :=
  ∀ s : State, BitsClean s → cat (dcDiff s) ≤ 11 → Room s (packedBytes s (hdcBits s)) →
    ∃ t, exec .hdc s = .next t ∧ WroteBits s t (hdcBits s) ∧
      t = { s with
        outmem := t.outmem, wp := t.wp, bitacc := t.bitacc, bitcnt := t.bitcnt, uop := 0x26,
        pred := s.pred.set (if s.bi.val < 4 then 0 else if s.bi.val = 4 then 1 else 2 : Fin 3) s.zblk[0] }

/-- HAC writes the AC items of the block, advances SEQ by its rows of R134, and changes nothing else
(spec/46_entropy.md R224, spec/40_driver.md R134). -/
def Obligations.HacCodesTheAcCoefficients : Prop :=
  ∀ s : State, BitsClean s → ScanOk s → (∀ v ∈ acCoefs s, cat v.toInt ≤ 10) → Room s (packedBytes s (hacBits s)) →
    ∃ t, exec .hac s = .next t ∧ WroteBits s t (hacBits s) ∧
      t = { s with
        outmem := t.outmem, wp := t.wp, bitacc := t.bitacc, bitcnt := t.bitcnt, uop := t.uop, mx := t.mx, my := t.my,
        bi := t.bi } ∧
      (s.bi.val < 5 → t.uop = 0x21 ∧ t.mx = s.mx ∧ t.my = s.my ∧ t.bi.val = s.bi.val + 1) ∧
      (s.bi = 5 → s.mx.toNat + 1 < mcuW s →
        t.uop = 0x20 ∧ t.mx.toNat = s.mx.toNat + 1 ∧ t.my = s.my ∧ t.bi = 0) ∧
      (s.bi = 5 → s.mx.toNat + 1 = mcuW s → s.my.toNat + 1 < mcuH s →
        t.uop = 0x20 ∧ t.mx = 0 ∧ t.my.toNat = s.my.toNat + 1 ∧ t.bi = 0) ∧
      (s.bi = 5 → s.mx.toNat + 1 = mcuW s → s.my.toNat + 1 = mcuH s →
        t.uop = 0x27 ∧ t.mx = s.mx ∧ t.my = s.my ∧ t.bi = s.bi)

/-- The AC items of a block determine its 63 coefficients: expanding them gives the coefficients back, every run is
0 .. 15, and EOB stands only at the end (spec/30_encoding.md R104, spec/46_entropy.md R224). -/
def Obligations.AcItemsDetermineTheBlock : Prop :=
  ∀ vs : List Int,
    expandItems vs.length (acItems vs 0) = vs ∧
    (∀ r v, AcItem.coef r v ∈ acItems vs 0 → r ≤ 15 ∧ v ≠ 0) ∧
    (AcItem.eob ∈ (acItems vs 0).dropLast → False) ∧
    (vs.getLast? ≠ some 0 → AcItem.eob ∉ acItems vs 0)

/-- SymbolOverflow is raised exactly when HDC finds a category above 11 or HAC reaches one above 10. HDC then writes
nothing. HAC has written the items before that coefficient, its ZRLs included, where their bytes fit (SUB 2, CODE 3);
where they do not fit, OUTPUT_OVERFLOW is reached first and wins, and OUTMEM is filled to OUT_BYTES
(spec/46_entropy.md R225, spec/60_exceptions.md R284, R287). -/
def Obligations.SymbolOverflowIsRaisedExactly : Prop :=
  (∀ s : State, 11 < cat (dcDiff s) →
    ∃ t, exec .hdc s = .next t ∧ t = { s with phase := .error, err := t.err, errInfo := t.errInfo } ∧
      t.err.extractLsb' 0 8 = 0x13) ∧
  (∀ s t : State, BitsClean s → s.wp.toNat ≤ s.params.outBytes → cat (dcDiff s) ≤ 11 → exec .hdc s = .next t →
    t.phase = .error → s.phase ≠ .error → t.err.extractLsb' 0 8 = 0x14) ∧
  (∀ s : State, BitsClean s → s.wp.toNat ≤ s.params.outBytes → (∃ v ∈ acCoefs s, 10 < cat v.toInt) →
    ∃ t, exec .hac s = .next t ∧
      t = { s with
        phase := .error, err := t.err, errInfo := t.errInfo, outmem := t.outmem, wp := t.wp, bitacc := t.bitacc,
        bitcnt := t.bitcnt } ∧
      (Room s (packedBytes s (hacBitsBefore s)) →
        t.err.extractLsb' 0 8 = 0x23 ∧ WroteBits s t (hacBitsBefore s)) ∧
      (¬ Room s (packedBytes s (hacBitsBefore s)) →
        t.err.extractLsb' 0 8 = 0x14 ∧ t.wp.toNat = s.params.outBytes ∧
        Appended s t ((packedBytes s (hacBitsBefore s)).take (s.params.outBytes - s.wp.toNat)))) ∧
  (∀ s t : State, BitsClean s → s.wp.toNat ≤ s.params.outBytes → (∀ v ∈ acCoefs s, cat v.toInt ≤ 10) →
    exec .hac s = .next t → t.phase = .error → s.phase ≠ .error → t.err.extractLsb' 0 8 = 0x14)

/-- HDC and HAC whose bits do not fit raise OUTPUT_OVERFLOW: OUTMEM is filled to OUT_BYTES with the bytes that fit, the
record names the micro-operation, and nothing else changes but BITACC and BITCNT (spec/47_bitstream.md R245, R246). -/
def Obligations.EntropyOverflowIsAnError : Prop :=
  (∀ s : State, BitsClean s → s.wp.toNat ≤ s.params.outBytes → cat (dcDiff s) ≤ 11 →
    ¬ Room s (packedBytes s (hdcBits s)) →
    ∃ t, exec .hdc s = .next t ∧
      t = { s with
        phase := .error, err := t.err, errInfo := t.errInfo, outmem := t.outmem, wp := t.wp, bitacc := t.bitacc,
        bitcnt := t.bitcnt } ∧
      t.err.extractLsb' 0 16 = 0x2514 ∧ t.wp.toNat = s.params.outBytes ∧
      Appended s t ((packedBytes s (hdcBits s)).take (s.params.outBytes - s.wp.toNat))) ∧
  (∀ s : State, BitsClean s → s.wp.toNat ≤ s.params.outBytes → (∀ v ∈ acCoefs s, cat v.toInt ≤ 10) →
    ¬ Room s (packedBytes s (hacBits s)) →
    ∃ t, exec .hac s = .next t ∧
      t = { s with
        phase := .error, err := t.err, errInfo := t.errInfo, outmem := t.outmem, wp := t.wp, bitacc := t.bitacc,
        bitcnt := t.bitcnt } ∧
      t.err.extractLsb' 0 16 = 0x2614 ∧ t.wp.toNat = s.params.outBytes ∧
      Appended s t ((packedBytes s (hacBits s)).take (s.params.outBytes - s.wp.toNat)))

/-- SymbolOverflow is unreachable: no step from a state with the invariant records ERR.CODE 3 (spec/46_entropy.md R226). -/
def Obligations.SymbolOverflowIsUnreachable : Prop :=
  ∀ s t : State, Inv s → s.phase = .busy → step s = .next t → t.err.extractLsb' 0 4 ≠ 3

/-! ### The bitstream writer -/

/-- Each marker micro-operation appends the bytes of its segment and changes nothing else but SEQ.UOP
(spec/47_bitstream.md R250 to R260, spec/40_driver.md R134). -/
def Obligations.MarkersAppendTheirSegments : Prop :=
  ∀ (i : Instr) (s : State) (bytes : List Byte), segmentBytes s i = some bytes → Room s bytes →
    ∃ (t : State) (j : Instr), exec i s = .next t ∧ nextInOrder i = some j ∧ Appended s t bytes ∧
      t = { s with outmem := t.outmem, wp := t.wp, uop := stageCode j }

/-- The ten header segments have the lengths of R94, and stand at its offsets: 623 bytes in all (spec/30_encoding.md R94). -/
def Obligations.HeaderHasTheStatedLayout : Prop :=
  ∀ s : State,
    headerInstrs.map (fun i => ((segmentBytes s i).getD []).length) = [2, 18, 69, 69, 19, 33, 183, 33, 183, 14] ∧
    (headerBytes s).length = 623 ∧
    ∀ i ∈ headerInstrs, (segmentBytes s i).getD [] =
      ((headerBytes s).drop (headerOffset i)).take ((segmentBytes s i).getD []).length

/-- A marker that does not fit raises OUTPUT_OVERFLOW when WP reaches OUT_BYTES: ERR names the micro-operation, the bytes
that fit have been written, and no other address changes (spec/47_bitstream.md R245, spec/60_exceptions.md R285). -/
def Obligations.MarkerOverflowIsAnError : Prop :=
  ∀ (i : Instr) (s : State) (bytes : List Byte), segmentBytes s i = some bytes → s.wp.toNat ≤ s.params.outBytes →
    ¬ Room s bytes →
    ∃ t, exec i s = .next t ∧
      t = { s with
        phase := .error, err := BitVec.ofNat 32 (0x001F0014 + 256 * (stageCode i).toNat), errInfo := 0,
        outmem := t.outmem, wp := t.wp } ∧
      t.wp.toNat = s.params.outBytes ∧ Appended s t (bytes.take (s.params.outBytes - s.wp.toNat))

/-- FLUSH pads the pending bits with 1 bits to one byte, stuffs it like any other, and leaves BITACC and BITCNT 0; with
nothing pending it writes nothing, and where the byte or its stuffing does not fit it raises OUTPUT_OVERFLOW, with OUTMEM filled to OUT_BYTES
(spec/47_bitstream.md R247). -/
def Obligations.FlushPadsWithOnes : Prop :=
  ∀ s : State, BitsClean s →
    (s.bitcnt = 0 → exec .flush s = .next { s with uop := 0x1A }) ∧
    (s.bitcnt ≠ 0 →
      let b := BitVec.ofNat 8 (natOfBits (pendingBits s ++ List.replicate (8 - s.bitcnt.val) true))
      let bytes := if b = 0xFF then [0xFF, 0x00] else [b]
      (Room s bytes →
        ∃ t, exec .flush s = .next t ∧ Appended s t bytes ∧
          t = { s with outmem := t.outmem, wp := t.wp, bitacc := 0, bitcnt := 0, uop := 0x1A }) ∧
      (¬ Room s bytes →
        ∃ t, exec .flush s = .next t ∧
          t = { s with
            phase := .error, err := 0x001F2714, errInfo := 0, outmem := t.outmem, wp := t.wp, bitacc := t.bitacc,
            bitcnt := t.bitcnt } ∧
          (s.wp.toNat ≤ s.params.outBytes →
            t.wp.toNat = s.params.outBytes ∧ Appended s t (bytes.take (s.params.outBytes - s.wp.toNat)))))

/-- In what PutBits appends, every 0xFF is followed by the stuffed 0x00, and without the stuffed bytes the output and the
pending bits are exactly the bit string, cut into bytes most significant bit first (spec/30_encoding.md R112,
spec/47_bitstream.md R246). -/
def Obligations.WriterStuffsEveryFf : Prop :=
  ∀ (s t : State) (v n : Nat), BitsClean s → putBits v n s = .done t → s.wp.toNat ≤ s.params.outBytes →
    ∃ bytes : List Byte,
      Appended s t (bytes.flatMap fun b => if b = 0xFF then [0xFF, 0x00] else [b]) ∧
      (bytes.flatMap fun b => bitsOf b.toNat 8) ++ pendingBits t = pendingBits s ++ bitsOf v n ∧
      t = { s with outmem := t.outmem, wp := t.wp, bitacc := t.bitacc, bitcnt := t.bitcnt }

/-! ### The whole machine -/

/-- The invariant, and the invariant of the file, hold at reset, whatever the capacities. -/
def Obligations.InvariantsHoldAtReset : Prop :=
  ∀ p : Params, Inv (State.resetWith p) ∧ FileInv (State.resetWith p)

/-- Every step keeps the invariant: the memories stay canonical and within their capacities, every byte below WP is
written, ERR is 0 outside ERROR, SEQ names a micro-operation while BUSY, and everything the encode reads has been written
by it within its range (spec/40_driver.md R143). -/
def Obligations.StepKeepsTheInvariant : Prop :=
  ∀ s t : State, Inv s → step s = .next t → Inv t

/-- From a state with the invariant the machine never stops: every step, whichever agent moves, answers a next state. -/
def Obligations.StepNeverStops : Prop :=
  ∀ s : State, Inv s → ∃ t, step s = .next t

/-- Every step keeps the file's invariant: the header is R94's, the entropy-coded segment is stuffed, and in DONE the file
runs from SOI to EOI (spec/47_bitstream.md R261, spec/30_encoding.md R94). -/
def Obligations.StepKeepsTheFileInvariant : Prop :=
  ∀ s t : State, Inv s → FileInv s → step s = .next t → FileInv t

/-- What the host reads in DONE is a file that begins with FF D8 and ends with FF D9, and in which every 0xFF of the
entropy-coded segment is followed by 0x00 (spec/95_test_vectors.md P8-1, P8-3). -/
def Obligations.DoneFileIsWellFormed : Prop :=
  ∀ s : State, Inv s → FileInv s → s.phase = .done →
    let n := (outLen s).toNat
    625 ≤ n ∧ outReadValue s 0 = 0xFF ∧ outReadValue s 1 = 0xD8 ∧ outReadValue s (n - 2) = 0xFF ∧
    outReadValue s (n - 1) = 0xD9 ∧
    ∀ a, 623 ≤ a → a < n - 2 → outReadValue s a = 0xFF → a + 1 < n - 2 ∧ outReadValue s (a + 1) = 0x00

/-- The sequencer follows R138: where the CORE's step at place `k` of the sequence leaves the machine BUSY, the
micro-operation that runs next is the one at place `k + 1`; where it ends in DONE, `k` was the last place; and the
micro-operation at place `k` is the one that ran (spec/40_driver.md R134, R138). -/
def Obligations.SequencerFollowsTheFixedProgram : Prop :=
  ∀ (s t : State) (i : Instr), Inv s → CoreMoves s → running s = some i → step s = .next t →
    let k := encodeSteps s - stepsLeft i s
    (encodeSequence (mcuW s * mcuH s))[k]? = some i ∧
    (t.phase = .busy → running t = (encodeSequence (mcuW s * mcuH s))[k + 1]?) ∧
    (t.phase = .done → k + 1 = (encodeSequence (mcuW s * mcuH s)).length) ∧
    (encodeSequence (mcuW s * mcuH s)).length = encodeSteps s

/-- Each step of the CORE ends the encode or brings it exactly one micro-operation nearer to its end, and a host access
while BUSY leaves it where it is (spec/70_reset_and_hazards.md R316, spec/40_driver.md R133). -/
def Obligations.EveryCoreStepMakesProgress : Prop :=
  (∀ (s : State) (i : Instr), Inv s → CoreMoves s → running s = some i →
    ∃ t, step s = .next t ∧
      ((t.phase = .done ∧ i = .fin ∧ stepsLeft i s = 1) ∨ t.phase = .error ∨
        ∃ j, running t = some j ∧ stepsLeft j t + 1 = stepsLeft i s)) ∧
  (∀ (s : State) (i : Instr), HostMoves s → running s = some i →
    ∃ t, step s = .next t ∧ running t = some i ∧ stepsLeft i t = stepsLeft i s)

/-- With no host event pending, an encode ends, in DONE or ERROR, within the steps that remain; one that ends in DONE takes
exactly that many, which from CHK is 16 + 37 * MCUW * MCUH (spec/70_reset_and_hazards.md R316, R318). That nothing is
pending, and that the CORE then moves, is THE MODEL'S CHOICE in place of the fairness of R317 (log entries 2 and 24): it
says nothing of a host that never lets the CORE move. -/
def Obligations.EveryEncodeEnds : Prop :=
  ∀ (s : State) (i : Instr), Inv s → s.sched = [] → running s = some i →
    ∃ t, Sys2Proof.core.run (stepsLeft i s) s = .next t ∧ (t.phase = .done ∨ t.phase = .error) ∧
      (t.phase = .done → ∀ k u, k < stepsLeft i s → Sys2Proof.core.run k s = .next u → u.phase = .busy) ∧
      (i = .chk → stepsLeft i s = 16 + 37 * (mcuW s * mcuH s))

/-- Two encodes that are the same, step by step, whatever the interleaving: one step of the CORE in each leaves them the same
or ends both with results the host cannot tell apart, and a host access to either while BUSY leaves them the same.
Nothing of an earlier encode, and no alpha byte, has an influence (spec/40_driver.md R143). Who moves is said by `sched`,
THE MODEL'S CHOICE (log entry 2). -/
def Obligations.SameEncodesStaySame : Prop :=
  (∀ s t : State, Inv s → Inv t → s.phase = .busy → SameEncode s t → CoreMoves s → CoreMoves t →
    ∃ s' t', step s = .next s' ∧ step t = .next t' ∧
      ((s'.phase = .busy ∧ SameEncode s' t') ∨ (s'.phase ≠ .busy ∧ SameResult s' t'))) ∧
  (∀ s t : State, s.phase = .busy → SameEncode s t → HostMoves s →
    ∃ s', step s = .next s' ∧ s'.phase = .busy ∧ SameEncode s' t) ∧
  (∀ s t : State, t.phase = .busy → SameEncode s t → HostMoves t →
    ∃ t', step t = .next t' ∧ t'.phase = .busy ∧ SameEncode s t')

/-- The result of an encode is a function of its inputs: of two encodes that start at CHK from the same inputs, whatever
else the two machines hold, and whatever host accesses (but no RESET) happen meanwhile, the first states that are no
longer BUSY have the same STATE, ERR, ERR_INFO, OUT_LEN and bytes (spec/40_driver.md R143). The last clause says that such
states come: there no event is pending in either machine, THE MODEL'S CHOICE (log entries 2 and 24). -/
def Obligations.ResultDependsOnInputsOnly : Prop :=
  ∀ s t : State, Inv s → Inv t → SameInputs s t → running s = some .chk → running t = some .chk →
    (∀ n m s' t', .reset ∉ s.sched → .reset ∉ t.sched → EndsIn n s s' → EndsIn m t t' → SameResult s' t') ∧
    (s.sched = [] → t.sched = [] →
      ∃ s' t', Sys2Proof.core.run (encodeSteps s) s = .next s' ∧ Sys2Proof.core.run (encodeSteps s) t = .next t' ∧
        s'.phase ≠ .busy ∧ SameResult s' t')

/-- encodeJpeg on a zero dimension or a buffer whose length is not width*height*4 returns InvalidArguments and no bytes
(spec/95_test_vectors.md P8-7, spec/40_driver.md R142). -/
def Obligations.BoundaryRejectsInvalidArguments : Prop :=
  ∀ (width height : Nat) (rgba : List Byte) (quality : Option Rat) (s : State), s.phase ≠ .busy →
    (width = 0 ∨ height = 0 ∨ rgba.length ≠ width * height * 4) →
    encodeJpeg width height rgba quality s = .error .invalidArguments
end

