-- ==== Sys2Proof/Laws/Memory.lean ====
section
/-! SUPPORT. Laws/Memory.lean: the laws of the byte memory: a read after a write, the canonical form, and the bytes of a
list of consecutive writes. -/

namespace Sys2Proof.Machine

@[simp] theorem Memory.read_nil (a : Nat) : Memory.read [] a = none := rfl

@[simp] theorem Memory.read_write_same (m : Memory) (a : Nat) (b : Byte) : (m.write a b).read a = some b := by
  induction m with
  | nil => simp [Memory.write, Memory.read]
  | cons c rest ih =>
    obtain ⟨k, d⟩ := c
    simp only [Memory.write]
    split
    · simp [Memory.read]
    · split
      · simp [Memory.read]
      · have : k ≠ a := by omega
        simp [Memory.read, this, ih]

theorem Memory.read_write_other (m : Memory) {a a' : Nat} (b : Byte) (h : a' ≠ a) :
    (m.write a b).read a' = m.read a' := by
  induction m with
  | nil => simp [Memory.write, Memory.read, Ne.symm h]
  | cons c rest ih =>
    obtain ⟨k, d⟩ := c
    simp only [Memory.write]
    split
    · simp [Memory.read, Ne.symm h]
    · split
      · subst_vars
        simp [Memory.read, Ne.symm h]
      · simp only [Memory.read, ih]

theorem Memory.read_write (m : Memory) (a a' : Nat) (b : Byte) :
    (m.write a b).read a' = if a' = a then some b else m.read a' := by
  split
  · subst_vars
    exact m.read_write_same _ b
  · exact m.read_write_other b ‹_›

/-- Every address of a canonical memory's rest is above its first. -/
theorem Memory.wf_cons {k : Nat} {d : Byte} {rest : Memory} :
    Memory.wf ((k, d) :: rest) = true ↔ (∀ c ∈ rest, k < c.1) ∧ Memory.wf rest = true := by
  induction rest generalizing k d with
  | nil => simp [Memory.wf]
  | cons c rest ih =>
    obtain ⟨k', d'⟩ := c
    rw [Memory.wf]
    simp only [Bool.and_eq_true, decide_eq_true_eq, List.mem_cons, forall_eq_or_imp]
    constructor
    · rintro ⟨h1, h2⟩
      refine ⟨⟨h1, fun c hc => ?_⟩, h2⟩
      have := (ih.mp h2).1 c hc
      omega
    · rintro ⟨⟨h1, -⟩, h2⟩
      exact ⟨h1, h2⟩

/-- A listed address after a write was listed before, or is the one written. -/
theorem Memory.mem_write {m : Memory} {a : Nat} {b : Byte} {c : Host.Cell} (h : c ∈ m.write a b) :
    c = (a, b) ∨ c ∈ m := by
  induction m with
  | nil => simpa [Memory.write] using h
  | cons x rest ih =>
    obtain ⟨k, d⟩ := x
    simp only [Memory.write] at h
    split at h
    · simpa using h
    · split at h
      · rcases List.mem_cons.mp h with h | h
        · exact .inl h
        · exact .inr (List.mem_cons_of_mem _ h)
      · rcases List.mem_cons.mp h with h | h
        · exact .inr (h ▸ List.mem_cons_self)
        · exact (ih h).imp_right (List.mem_cons_of_mem _)

/-- A write keeps the canonical form. -/
theorem Memory.wf_write {m : Memory} (h : m.wf = true) (a : Nat) (b : Byte) : (m.write a b).wf = true := by
  induction m with
  | nil => rfl
  | cons x rest ih =>
    obtain ⟨k, d⟩ := x
    have hc := Memory.wf_cons.mp h
    simp only [Memory.write]
    split
    · refine Memory.wf_cons.mpr ⟨fun c hc' => ?_, h⟩
      simp only [List.mem_cons] at hc'
      rcases hc' with rfl | hc'
      · assumption
      · have := hc.1 c hc'
        omega
    · split
      · subst_vars
        exact Memory.wf_cons.mpr hc
      · refine Memory.wf_cons.mpr ⟨fun c hc' => ?_, ih hc.2⟩
        rcases Memory.mem_write hc' with rfl | hm
        · show k < a
          omega
        · exact hc.1 c hm

/-- A write at an address below a bound keeps the addresses below it. -/
theorem Memory.keysBelow_write {m : Memory} {n : Nat} (h : ∀ c ∈ m, c.1 < n) {a : Nat} (ha : a < n) (b : Byte) :
    ∀ c ∈ m.write a b, c.1 < n := by
  intro c hc
  rcases Memory.mem_write hc with rfl | hm
  · exact ha
  · exact h c hm

@[simp] theorem Memory.writeList_nil (m : Memory) (a : Nat) : m.writeList a [] = m := rfl

@[simp] theorem Memory.writeList_cons (m : Memory) (a : Nat) (b : Byte) (bs : List Byte) :
    m.writeList a (b :: bs) = (m.write a b).writeList (a + 1) bs := rfl

theorem Memory.writeList_append (m : Memory) (a : Nat) (xs ys : List Byte) :
    m.writeList a (xs ++ ys) = (m.writeList a xs).writeList (a + xs.length) ys := by
  induction xs generalizing m a with
  | nil => rfl
  | cons x xs ih =>
    simp only [List.cons_append, writeList_cons, ih, List.length_cons]
    congr 1
    omega

/-- Consecutive writes leave every other address alone. -/
theorem Memory.read_writeList_outside (m : Memory) (a : Nat) (bs : List Byte) {x : Nat}
    (h : x < a ∨ a + bs.length ≤ x) : (m.writeList a bs).read x = m.read x := by
  induction bs generalizing m a with
  | nil => rfl
  | cons b bs ih =>
    simp only [List.length_cons] at h
    rw [writeList_cons, ih _ _ (by omega), Memory.read_write_other _ _ (by omega)]

/-- The bytes of consecutive writes read back where they went. -/
theorem Memory.read_writeList_inside (m : Memory) (a : Nat) (bs : List Byte) {k : Nat} (h : k < bs.length) :
    (m.writeList a bs).read (a + k) = bs[k]? := by
  induction bs generalizing m a k with
  | nil => simp at h
  | cons b bs ih =>
    cases k with
    | zero => rw [writeList_cons, Memory.read_writeList_outside _ _ _ (by omega)]; simp
    | succ k =>
      have := ih (m.write a b) (a + 1) (k := k) (by simpa using h)
      rw [writeList_cons, show a + (k + 1) = a + 1 + k by omega, this]
      simp

/-- Consecutive writes keep the canonical form. -/
theorem Memory.wf_writeList {m : Memory} (h : m.wf = true) (a : Nat) (bs : List Byte) : (m.writeList a bs).wf = true := by
  induction bs generalizing m a with
  | nil => exact h
  | cons b bs ih => exact ih (Memory.wf_write h a b) (a + 1)

/-- Consecutive writes below a bound keep the addresses below it. -/
theorem Memory.keysBelow_writeList {m : Memory} {n : Nat} (h : ∀ c ∈ m, c.1 < n) {a : Nat} {bs : List Byte}
    (ha : a + bs.length ≤ n) : ∀ c ∈ m.writeList a bs, c.1 < n := by
  induction bs generalizing m a with
  | nil => exact h
  | cons b bs ih =>
    simp only [List.length_cons] at ha
    exact ih (Memory.keysBelow_write h (by omega) b) (by omega)

/-- Equal memories are equal data: two canonical memories that read alike are one list. -/
theorem Memory.eq_of_reads_eq {m n : Memory} (hm : m.wf = true) (hn : n.wf = true)
    (h : ∀ a, m.read a = n.read a) : m = n := by
  have above : ∀ {k : Nat} {r : Memory}, (∀ c ∈ r, k < c.1) → ∀ a, a ≤ k → r.read a = none := by
    intro k r
    induction r with
    | nil => intro _ _ _; rfl
    | cons c r ih =>
      obtain ⟨k', d'⟩ := c
      intro hk a ha
      have h1 := hk (k', d') (by simp)
      simp only at h1
      simp only [Memory.read]
      rw [if_neg (by omega)]
      exact ih (fun c hc => hk c (by simp [hc])) a ha
  induction m generalizing n with
  | nil =>
    cases n with
    | nil => rfl
    | cons c n =>
      have := h c.1
      simp [Memory.read] at this
  | cons c m ih =>
    obtain ⟨k, d⟩ := c
    have hc := Memory.wf_cons.mp hm
    cases n with
    | nil =>
      have := h k
      simp [Memory.read] at this
    | cons c' n =>
      obtain ⟨k', d'⟩ := c'
      have hc' := Memory.wf_cons.mp hn
      have hkk : k = k' := by
        rcases Nat.lt_trichotomy k k' with hlt | heq | hgt
        · have := h k
          rw [Memory.read, if_pos rfl, Memory.read, if_neg (by omega), above hc'.1 k (by omega)] at this
          simp at this
        · exact heq
        · have := h k'
          rw [Memory.read, if_neg (by omega), above hc.1 k' (by omega), Memory.read, if_pos rfl] at this
          simp at this
      subst hkk
      have hd : d = d' := by
        have := h k
        simpa [Memory.read] using this
      subst hd
      have : m = n := by
        apply ih hc.2 hc'.2
        intro a
        by_cases hak : a ≤ k
        · rw [above hc.1 a hak, above hc'.1 a hak]
        · have := h a
          simpa [Memory.read, show k ≠ a by omega] using this
      rw [this]

end Sys2Proof.Machine
end

