-- ==== Sys2Proof/Laws/State.lean ====
section
/-! SUPPORT. Laws/State.lean: one lemma per field per named update of the state, each true by definition. -/

namespace Sys2Proof.Machine

section
variable (s : State) (i : Instr)
@[simp] theorem State.setUop_params : (s.setUop i).params = s.params := rfl
@[simp] theorem State.setUop_phase : (s.setUop i).phase = s.phase := rfl
@[simp] theorem State.setUop_badcmd : (s.setUop i).badcmd = s.badcmd := rfl
@[simp] theorem State.setUop_width : (s.setUop i).width = s.width := rfl
@[simp] theorem State.setUop_height : (s.setUop i).height = s.height := rfl
@[simp] theorem State.setUop_quality : (s.setUop i).quality = s.quality := rfl
@[simp] theorem State.setUop_pixLen : (s.setUop i).pixLen = s.pixLen := rfl
@[simp] theorem State.setUop_err : (s.setUop i).err = s.err := rfl
@[simp] theorem State.setUop_errInfo : (s.setUop i).errInfo = s.errInfo := rfl
@[simp] theorem State.setUop_uop : (s.setUop i).uop = stageCode i := rfl
@[simp] theorem State.setUop_mx : (s.setUop i).mx = s.mx := rfl
@[simp] theorem State.setUop_my : (s.setUop i).my = s.my := rfl
@[simp] theorem State.setUop_bi : (s.setUop i).bi = s.bi := rfl
@[simp] theorem State.setUop_pred : (s.setUop i).pred = s.pred := rfl
@[simp] theorem State.setUop_bitacc : (s.setUop i).bitacc = s.bitacc := rfl
@[simp] theorem State.setUop_bitcnt : (s.setUop i).bitcnt = s.bitcnt := rfl
@[simp] theorem State.setUop_wp : (s.setUop i).wp = s.wp := rfl
@[simp] theorem State.setUop_mcu : (s.setUop i).mcu = s.mcu := rfl
@[simp] theorem State.setUop_sblk : (s.setUop i).sblk = s.sblk := rfl
@[simp] theorem State.setUop_fblk : (s.setUop i).fblk = s.fblk := rfl
@[simp] theorem State.setUop_qblk : (s.setUop i).qblk = s.qblk := rfl
@[simp] theorem State.setUop_zblk : (s.setUop i).zblk = s.zblk := rfl
@[simp] theorem State.setUop_qt : (s.setUop i).qt = s.qt := rfl
@[simp] theorem State.setUop_pixmem : (s.setUop i).pixmem = s.pixmem := rfl
@[simp] theorem State.setUop_outmem : (s.setUop i).outmem = s.outmem := rfl
@[simp] theorem State.setUop_sched : (s.setUop i).sched = s.sched := rfl
@[simp] theorem State.setUop_reads : (s.setUop i).reads = s.reads := rfl
end

section
variable (s : State) (i : Instr) (x y : BitVec 12) (b : Fin 6)
@[simp] theorem State.setSeq_params : (s.setSeq i x y b).params = s.params := rfl
@[simp] theorem State.setSeq_phase : (s.setSeq i x y b).phase = s.phase := rfl
@[simp] theorem State.setSeq_badcmd : (s.setSeq i x y b).badcmd = s.badcmd := rfl
@[simp] theorem State.setSeq_width : (s.setSeq i x y b).width = s.width := rfl
@[simp] theorem State.setSeq_height : (s.setSeq i x y b).height = s.height := rfl
@[simp] theorem State.setSeq_quality : (s.setSeq i x y b).quality = s.quality := rfl
@[simp] theorem State.setSeq_pixLen : (s.setSeq i x y b).pixLen = s.pixLen := rfl
@[simp] theorem State.setSeq_err : (s.setSeq i x y b).err = s.err := rfl
@[simp] theorem State.setSeq_errInfo : (s.setSeq i x y b).errInfo = s.errInfo := rfl
@[simp] theorem State.setSeq_uop : (s.setSeq i x y b).uop = stageCode i := rfl
@[simp] theorem State.setSeq_mx : (s.setSeq i x y b).mx = x := rfl
@[simp] theorem State.setSeq_my : (s.setSeq i x y b).my = y := rfl
@[simp] theorem State.setSeq_bi : (s.setSeq i x y b).bi = b := rfl
@[simp] theorem State.setSeq_pred : (s.setSeq i x y b).pred = s.pred := rfl
@[simp] theorem State.setSeq_bitacc : (s.setSeq i x y b).bitacc = s.bitacc := rfl
@[simp] theorem State.setSeq_bitcnt : (s.setSeq i x y b).bitcnt = s.bitcnt := rfl
@[simp] theorem State.setSeq_wp : (s.setSeq i x y b).wp = s.wp := rfl
@[simp] theorem State.setSeq_mcu : (s.setSeq i x y b).mcu = s.mcu := rfl
@[simp] theorem State.setSeq_sblk : (s.setSeq i x y b).sblk = s.sblk := rfl
@[simp] theorem State.setSeq_fblk : (s.setSeq i x y b).fblk = s.fblk := rfl
@[simp] theorem State.setSeq_qblk : (s.setSeq i x y b).qblk = s.qblk := rfl
@[simp] theorem State.setSeq_zblk : (s.setSeq i x y b).zblk = s.zblk := rfl
@[simp] theorem State.setSeq_qt : (s.setSeq i x y b).qt = s.qt := rfl
@[simp] theorem State.setSeq_pixmem : (s.setSeq i x y b).pixmem = s.pixmem := rfl
@[simp] theorem State.setSeq_outmem : (s.setSeq i x y b).outmem = s.outmem := rfl
@[simp] theorem State.setSeq_sched : (s.setSeq i x y b).sched = s.sched := rfl
@[simp] theorem State.setSeq_reads : (s.setSeq i x y b).reads = s.reads := rfl
end

section
variable (s : State) (a : Byte) (c : Fin 8)
@[simp] theorem State.setBits_params : (s.setBits a c).params = s.params := rfl
@[simp] theorem State.setBits_phase : (s.setBits a c).phase = s.phase := rfl
@[simp] theorem State.setBits_badcmd : (s.setBits a c).badcmd = s.badcmd := rfl
@[simp] theorem State.setBits_width : (s.setBits a c).width = s.width := rfl
@[simp] theorem State.setBits_height : (s.setBits a c).height = s.height := rfl
@[simp] theorem State.setBits_quality : (s.setBits a c).quality = s.quality := rfl
@[simp] theorem State.setBits_pixLen : (s.setBits a c).pixLen = s.pixLen := rfl
@[simp] theorem State.setBits_err : (s.setBits a c).err = s.err := rfl
@[simp] theorem State.setBits_errInfo : (s.setBits a c).errInfo = s.errInfo := rfl
@[simp] theorem State.setBits_uop : (s.setBits a c).uop = s.uop := rfl
@[simp] theorem State.setBits_mx : (s.setBits a c).mx = s.mx := rfl
@[simp] theorem State.setBits_my : (s.setBits a c).my = s.my := rfl
@[simp] theorem State.setBits_bi : (s.setBits a c).bi = s.bi := rfl
@[simp] theorem State.setBits_pred : (s.setBits a c).pred = s.pred := rfl
@[simp] theorem State.setBits_bitacc : (s.setBits a c).bitacc = a := rfl
@[simp] theorem State.setBits_bitcnt : (s.setBits a c).bitcnt = c := rfl
@[simp] theorem State.setBits_wp : (s.setBits a c).wp = s.wp := rfl
@[simp] theorem State.setBits_mcu : (s.setBits a c).mcu = s.mcu := rfl
@[simp] theorem State.setBits_sblk : (s.setBits a c).sblk = s.sblk := rfl
@[simp] theorem State.setBits_fblk : (s.setBits a c).fblk = s.fblk := rfl
@[simp] theorem State.setBits_qblk : (s.setBits a c).qblk = s.qblk := rfl
@[simp] theorem State.setBits_zblk : (s.setBits a c).zblk = s.zblk := rfl
@[simp] theorem State.setBits_qt : (s.setBits a c).qt = s.qt := rfl
@[simp] theorem State.setBits_pixmem : (s.setBits a c).pixmem = s.pixmem := rfl
@[simp] theorem State.setBits_outmem : (s.setBits a c).outmem = s.outmem := rfl
@[simp] theorem State.setBits_sched : (s.setBits a c).sched = s.sched := rfl
@[simp] theorem State.setBits_reads : (s.setBits a c).reads = s.reads := rfl
end

section
variable (s : State) (b : Byte)
@[simp] theorem State.appendByte_params : (s.appendByte b).params = s.params := rfl
@[simp] theorem State.appendByte_phase : (s.appendByte b).phase = s.phase := rfl
@[simp] theorem State.appendByte_badcmd : (s.appendByte b).badcmd = s.badcmd := rfl
@[simp] theorem State.appendByte_width : (s.appendByte b).width = s.width := rfl
@[simp] theorem State.appendByte_height : (s.appendByte b).height = s.height := rfl
@[simp] theorem State.appendByte_quality : (s.appendByte b).quality = s.quality := rfl
@[simp] theorem State.appendByte_pixLen : (s.appendByte b).pixLen = s.pixLen := rfl
@[simp] theorem State.appendByte_err : (s.appendByte b).err = s.err := rfl
@[simp] theorem State.appendByte_errInfo : (s.appendByte b).errInfo = s.errInfo := rfl
@[simp] theorem State.appendByte_uop : (s.appendByte b).uop = s.uop := rfl
@[simp] theorem State.appendByte_mx : (s.appendByte b).mx = s.mx := rfl
@[simp] theorem State.appendByte_my : (s.appendByte b).my = s.my := rfl
@[simp] theorem State.appendByte_bi : (s.appendByte b).bi = s.bi := rfl
@[simp] theorem State.appendByte_pred : (s.appendByte b).pred = s.pred := rfl
@[simp] theorem State.appendByte_bitacc : (s.appendByte b).bitacc = s.bitacc := rfl
@[simp] theorem State.appendByte_bitcnt : (s.appendByte b).bitcnt = s.bitcnt := rfl
@[simp] theorem State.appendByte_wp : (s.appendByte b).wp = s.wp + 1 := rfl
@[simp] theorem State.appendByte_mcu : (s.appendByte b).mcu = s.mcu := rfl
@[simp] theorem State.appendByte_sblk : (s.appendByte b).sblk = s.sblk := rfl
@[simp] theorem State.appendByte_fblk : (s.appendByte b).fblk = s.fblk := rfl
@[simp] theorem State.appendByte_qblk : (s.appendByte b).qblk = s.qblk := rfl
@[simp] theorem State.appendByte_zblk : (s.appendByte b).zblk = s.zblk := rfl
@[simp] theorem State.appendByte_qt : (s.appendByte b).qt = s.qt := rfl
@[simp] theorem State.appendByte_pixmem : (s.appendByte b).pixmem = s.pixmem := rfl
@[simp] theorem State.appendByte_outmem : (s.appendByte b).outmem = s.outmem.write s.wp.toNat b := rfl
@[simp] theorem State.appendByte_sched : (s.appendByte b).sched = s.sched := rfl
@[simp] theorem State.appendByte_reads : (s.appendByte b).reads = s.reads := rfl
end

section
variable (s : State) (c : Fin 3) (v : Coef)
@[simp] theorem State.setPred_params : (s.setPred c v).params = s.params := rfl
@[simp] theorem State.setPred_phase : (s.setPred c v).phase = s.phase := rfl
@[simp] theorem State.setPred_badcmd : (s.setPred c v).badcmd = s.badcmd := rfl
@[simp] theorem State.setPred_width : (s.setPred c v).width = s.width := rfl
@[simp] theorem State.setPred_height : (s.setPred c v).height = s.height := rfl
@[simp] theorem State.setPred_quality : (s.setPred c v).quality = s.quality := rfl
@[simp] theorem State.setPred_pixLen : (s.setPred c v).pixLen = s.pixLen := rfl
@[simp] theorem State.setPred_err : (s.setPred c v).err = s.err := rfl
@[simp] theorem State.setPred_errInfo : (s.setPred c v).errInfo = s.errInfo := rfl
@[simp] theorem State.setPred_uop : (s.setPred c v).uop = s.uop := rfl
@[simp] theorem State.setPred_mx : (s.setPred c v).mx = s.mx := rfl
@[simp] theorem State.setPred_my : (s.setPred c v).my = s.my := rfl
@[simp] theorem State.setPred_bi : (s.setPred c v).bi = s.bi := rfl
@[simp] theorem State.setPred_pred : (s.setPred c v).pred = s.pred.set c v := rfl
@[simp] theorem State.setPred_bitacc : (s.setPred c v).bitacc = s.bitacc := rfl
@[simp] theorem State.setPred_bitcnt : (s.setPred c v).bitcnt = s.bitcnt := rfl
@[simp] theorem State.setPred_wp : (s.setPred c v).wp = s.wp := rfl
@[simp] theorem State.setPred_mcu : (s.setPred c v).mcu = s.mcu := rfl
@[simp] theorem State.setPred_sblk : (s.setPred c v).sblk = s.sblk := rfl
@[simp] theorem State.setPred_fblk : (s.setPred c v).fblk = s.fblk := rfl
@[simp] theorem State.setPred_qblk : (s.setPred c v).qblk = s.qblk := rfl
@[simp] theorem State.setPred_zblk : (s.setPred c v).zblk = s.zblk := rfl
@[simp] theorem State.setPred_qt : (s.setPred c v).qt = s.qt := rfl
@[simp] theorem State.setPred_pixmem : (s.setPred c v).pixmem = s.pixmem := rfl
@[simp] theorem State.setPred_outmem : (s.setPred c v).outmem = s.outmem := rfl
@[simp] theorem State.setPred_sched : (s.setPred c v).sched = s.sched := rfl
@[simp] theorem State.setPred_reads : (s.setPred c v).reads = s.reads := rfl
end

section
variable (i : Instr) (c : ErrorCode) (e : BitVec 4) (s : State)
@[simp] theorem enterError_params : (enterError i c e s).params = s.params := rfl
@[simp] theorem enterError_phase : (enterError i c e s).phase = .error := rfl
@[simp] theorem enterError_badcmd : (enterError i c e s).badcmd = s.badcmd := rfl
@[simp] theorem enterError_width : (enterError i c e s).width = s.width := rfl
@[simp] theorem enterError_height : (enterError i c e s).height = s.height := rfl
@[simp] theorem enterError_quality : (enterError i c e s).quality = s.quality := rfl
@[simp] theorem enterError_pixLen : (enterError i c e s).pixLen = s.pixLen := rfl
@[simp] theorem enterError_errInfo : (enterError i c e s).errInfo = if inBlock i then errInfoWord s.mx s.my else 0 := rfl
@[simp] theorem enterError_uop : (enterError i c e s).uop = s.uop := rfl
@[simp] theorem enterError_mx : (enterError i c e s).mx = s.mx := rfl
@[simp] theorem enterError_my : (enterError i c e s).my = s.my := rfl
@[simp] theorem enterError_bi : (enterError i c e s).bi = s.bi := rfl
@[simp] theorem enterError_pred : (enterError i c e s).pred = s.pred := rfl
@[simp] theorem enterError_bitacc : (enterError i c e s).bitacc = s.bitacc := rfl
@[simp] theorem enterError_bitcnt : (enterError i c e s).bitcnt = s.bitcnt := rfl
@[simp] theorem enterError_wp : (enterError i c e s).wp = s.wp := rfl
@[simp] theorem enterError_mcu : (enterError i c e s).mcu = s.mcu := rfl
@[simp] theorem enterError_sblk : (enterError i c e s).sblk = s.sblk := rfl
@[simp] theorem enterError_fblk : (enterError i c e s).fblk = s.fblk := rfl
@[simp] theorem enterError_qblk : (enterError i c e s).qblk = s.qblk := rfl
@[simp] theorem enterError_zblk : (enterError i c e s).zblk = s.zblk := rfl
@[simp] theorem enterError_qt : (enterError i c e s).qt = s.qt := rfl
@[simp] theorem enterError_pixmem : (enterError i c e s).pixmem = s.pixmem := rfl
@[simp] theorem enterError_outmem : (enterError i c e s).outmem = s.outmem := rfl
@[simp] theorem enterError_sched : (enterError i c e s).sched = s.sched := rfl
@[simp] theorem enterError_reads : (enterError i c e s).reads = s.reads := rfl
end

section
variable (s : State)
@[simp] theorem acceptStart_params : (acceptStart s).params = s.params := rfl
@[simp] theorem acceptStart_phase : (acceptStart s).phase = .busy := rfl
@[simp] theorem acceptStart_badcmd : (acceptStart s).badcmd = false := rfl
@[simp] theorem acceptStart_width : (acceptStart s).width = s.width := rfl
@[simp] theorem acceptStart_height : (acceptStart s).height = s.height := rfl
@[simp] theorem acceptStart_quality : (acceptStart s).quality = s.quality := rfl
@[simp] theorem acceptStart_pixLen : (acceptStart s).pixLen = s.pixLen := rfl
@[simp] theorem acceptStart_err : (acceptStart s).err = 0 := rfl
@[simp] theorem acceptStart_errInfo : (acceptStart s).errInfo = 0 := rfl
@[simp] theorem acceptStart_uop : (acceptStart s).uop = stageCode .chk := rfl
@[simp] theorem acceptStart_mx : (acceptStart s).mx = s.mx := rfl
@[simp] theorem acceptStart_my : (acceptStart s).my = s.my := rfl
@[simp] theorem acceptStart_bi : (acceptStart s).bi = s.bi := rfl
@[simp] theorem acceptStart_pred : (acceptStart s).pred = s.pred := rfl
@[simp] theorem acceptStart_bitacc : (acceptStart s).bitacc = s.bitacc := rfl
@[simp] theorem acceptStart_bitcnt : (acceptStart s).bitcnt = s.bitcnt := rfl
@[simp] theorem acceptStart_wp : (acceptStart s).wp = s.wp := rfl
@[simp] theorem acceptStart_mcu : (acceptStart s).mcu = s.mcu := rfl
@[simp] theorem acceptStart_sblk : (acceptStart s).sblk = s.sblk := rfl
@[simp] theorem acceptStart_fblk : (acceptStart s).fblk = s.fblk := rfl
@[simp] theorem acceptStart_qblk : (acceptStart s).qblk = s.qblk := rfl
@[simp] theorem acceptStart_zblk : (acceptStart s).zblk = s.zblk := rfl
@[simp] theorem acceptStart_qt : (acceptStart s).qt = s.qt := rfl
@[simp] theorem acceptStart_pixmem : (acceptStart s).pixmem = s.pixmem := rfl
@[simp] theorem acceptStart_outmem : (acceptStart s).outmem = s.outmem := rfl
@[simp] theorem acceptStart_sched : (acceptStart s).sched = s.sched := rfl
@[simp] theorem acceptStart_reads : (acceptStart s).reads = s.reads := rfl
end

section
variable (s : State)
@[simp] theorem refuseCommand_params : (refuseCommand s).params = s.params := rfl
@[simp] theorem refuseCommand_phase : (refuseCommand s).phase = s.phase := rfl
@[simp] theorem refuseCommand_badcmd : (refuseCommand s).badcmd = true := rfl
@[simp] theorem refuseCommand_width : (refuseCommand s).width = s.width := rfl
@[simp] theorem refuseCommand_height : (refuseCommand s).height = s.height := rfl
@[simp] theorem refuseCommand_quality : (refuseCommand s).quality = s.quality := rfl
@[simp] theorem refuseCommand_pixLen : (refuseCommand s).pixLen = s.pixLen := rfl
@[simp] theorem refuseCommand_err : (refuseCommand s).err = s.err := rfl
@[simp] theorem refuseCommand_errInfo : (refuseCommand s).errInfo = s.errInfo := rfl
@[simp] theorem refuseCommand_uop : (refuseCommand s).uop = s.uop := rfl
@[simp] theorem refuseCommand_mx : (refuseCommand s).mx = s.mx := rfl
@[simp] theorem refuseCommand_my : (refuseCommand s).my = s.my := rfl
@[simp] theorem refuseCommand_bi : (refuseCommand s).bi = s.bi := rfl
@[simp] theorem refuseCommand_pred : (refuseCommand s).pred = s.pred := rfl
@[simp] theorem refuseCommand_bitacc : (refuseCommand s).bitacc = s.bitacc := rfl
@[simp] theorem refuseCommand_bitcnt : (refuseCommand s).bitcnt = s.bitcnt := rfl
@[simp] theorem refuseCommand_wp : (refuseCommand s).wp = s.wp := rfl
@[simp] theorem refuseCommand_mcu : (refuseCommand s).mcu = s.mcu := rfl
@[simp] theorem refuseCommand_sblk : (refuseCommand s).sblk = s.sblk := rfl
@[simp] theorem refuseCommand_fblk : (refuseCommand s).fblk = s.fblk := rfl
@[simp] theorem refuseCommand_qblk : (refuseCommand s).qblk = s.qblk := rfl
@[simp] theorem refuseCommand_zblk : (refuseCommand s).zblk = s.zblk := rfl
@[simp] theorem refuseCommand_qt : (refuseCommand s).qt = s.qt := rfl
@[simp] theorem refuseCommand_pixmem : (refuseCommand s).pixmem = s.pixmem := rfl
@[simp] theorem refuseCommand_outmem : (refuseCommand s).outmem = s.outmem := rfl
@[simp] theorem refuseCommand_sched : (refuseCommand s).sched = s.sched := rfl
@[simp] theorem refuseCommand_reads : (refuseCommand s).reads = s.reads := rfl
end

section
variable (s : State)
@[simp] theorem initEncode_params : (initEncode s).params = s.params := rfl
@[simp] theorem initEncode_phase : (initEncode s).phase = s.phase := rfl
@[simp] theorem initEncode_badcmd : (initEncode s).badcmd = s.badcmd := rfl
@[simp] theorem initEncode_width : (initEncode s).width = s.width := rfl
@[simp] theorem initEncode_height : (initEncode s).height = s.height := rfl
@[simp] theorem initEncode_quality : (initEncode s).quality = s.quality := rfl
@[simp] theorem initEncode_pixLen : (initEncode s).pixLen = s.pixLen := rfl
@[simp] theorem initEncode_err : (initEncode s).err = s.err := rfl
@[simp] theorem initEncode_errInfo : (initEncode s).errInfo = s.errInfo := rfl
@[simp] theorem initEncode_uop : (initEncode s).uop = s.uop := rfl
@[simp] theorem initEncode_mx : (initEncode s).mx = 0 := rfl
@[simp] theorem initEncode_my : (initEncode s).my = 0 := rfl
@[simp] theorem initEncode_bi : (initEncode s).bi = 0 := rfl
@[simp] theorem initEncode_pred : (initEncode s).pred = Vector.replicate 3 0 := rfl
@[simp] theorem initEncode_bitacc : (initEncode s).bitacc = 0 := rfl
@[simp] theorem initEncode_bitcnt : (initEncode s).bitcnt = 0 := rfl
@[simp] theorem initEncode_wp : (initEncode s).wp = 0 := rfl
@[simp] theorem initEncode_mcu : (initEncode s).mcu = s.mcu := rfl
@[simp] theorem initEncode_sblk : (initEncode s).sblk = s.sblk := rfl
@[simp] theorem initEncode_fblk : (initEncode s).fblk = s.fblk := rfl
@[simp] theorem initEncode_qblk : (initEncode s).qblk = s.qblk := rfl
@[simp] theorem initEncode_zblk : (initEncode s).zblk = s.zblk := rfl
@[simp] theorem initEncode_qt : (initEncode s).qt = s.qt := rfl
@[simp] theorem initEncode_pixmem : (initEncode s).pixmem = s.pixmem := rfl
@[simp] theorem initEncode_outmem : (initEncode s).outmem = s.outmem := rfl
@[simp] theorem initEncode_sched : (initEncode s).sched = s.sched := rfl
@[simp] theorem initEncode_reads : (initEncode s).reads = s.reads := rfl
end

section
variable (s : State)
@[simp] theorem commit_params : (commit s).params = s.params := rfl
@[simp] theorem commit_phase : (commit s).phase = .done := rfl
@[simp] theorem commit_badcmd : (commit s).badcmd = s.badcmd := rfl
@[simp] theorem commit_width : (commit s).width = s.width := rfl
@[simp] theorem commit_height : (commit s).height = s.height := rfl
@[simp] theorem commit_quality : (commit s).quality = s.quality := rfl
@[simp] theorem commit_pixLen : (commit s).pixLen = s.pixLen := rfl
@[simp] theorem commit_err : (commit s).err = s.err := rfl
@[simp] theorem commit_errInfo : (commit s).errInfo = s.errInfo := rfl
@[simp] theorem commit_uop : (commit s).uop = s.uop := rfl
@[simp] theorem commit_mx : (commit s).mx = s.mx := rfl
@[simp] theorem commit_my : (commit s).my = s.my := rfl
@[simp] theorem commit_bi : (commit s).bi = s.bi := rfl
@[simp] theorem commit_pred : (commit s).pred = s.pred := rfl
@[simp] theorem commit_bitacc : (commit s).bitacc = s.bitacc := rfl
@[simp] theorem commit_bitcnt : (commit s).bitcnt = s.bitcnt := rfl
@[simp] theorem commit_wp : (commit s).wp = s.wp := rfl
@[simp] theorem commit_mcu : (commit s).mcu = s.mcu := rfl
@[simp] theorem commit_sblk : (commit s).sblk = s.sblk := rfl
@[simp] theorem commit_fblk : (commit s).fblk = s.fblk := rfl
@[simp] theorem commit_qblk : (commit s).qblk = s.qblk := rfl
@[simp] theorem commit_zblk : (commit s).zblk = s.zblk := rfl
@[simp] theorem commit_qt : (commit s).qt = s.qt := rfl
@[simp] theorem commit_pixmem : (commit s).pixmem = s.pixmem := rfl
@[simp] theorem commit_outmem : (commit s).outmem = s.outmem := rfl
@[simp] theorem commit_sched : (commit s).sched = s.sched := rfl
@[simp] theorem commit_reads : (commit s).reads = s.reads := rfl
end

section
variable (r : HostReturn) (s : State)
@[simp] theorem returnToHost_params : (returnToHost r s).params = s.params := rfl
@[simp] theorem returnToHost_phase : (returnToHost r s).phase = s.phase := rfl
@[simp] theorem returnToHost_badcmd : (returnToHost r s).badcmd = s.badcmd := rfl
@[simp] theorem returnToHost_width : (returnToHost r s).width = s.width := rfl
@[simp] theorem returnToHost_height : (returnToHost r s).height = s.height := rfl
@[simp] theorem returnToHost_quality : (returnToHost r s).quality = s.quality := rfl
@[simp] theorem returnToHost_pixLen : (returnToHost r s).pixLen = s.pixLen := rfl
@[simp] theorem returnToHost_err : (returnToHost r s).err = s.err := rfl
@[simp] theorem returnToHost_errInfo : (returnToHost r s).errInfo = s.errInfo := rfl
@[simp] theorem returnToHost_uop : (returnToHost r s).uop = s.uop := rfl
@[simp] theorem returnToHost_mx : (returnToHost r s).mx = s.mx := rfl
@[simp] theorem returnToHost_my : (returnToHost r s).my = s.my := rfl
@[simp] theorem returnToHost_bi : (returnToHost r s).bi = s.bi := rfl
@[simp] theorem returnToHost_pred : (returnToHost r s).pred = s.pred := rfl
@[simp] theorem returnToHost_bitacc : (returnToHost r s).bitacc = s.bitacc := rfl
@[simp] theorem returnToHost_bitcnt : (returnToHost r s).bitcnt = s.bitcnt := rfl
@[simp] theorem returnToHost_wp : (returnToHost r s).wp = s.wp := rfl
@[simp] theorem returnToHost_mcu : (returnToHost r s).mcu = s.mcu := rfl
@[simp] theorem returnToHost_sblk : (returnToHost r s).sblk = s.sblk := rfl
@[simp] theorem returnToHost_fblk : (returnToHost r s).fblk = s.fblk := rfl
@[simp] theorem returnToHost_qblk : (returnToHost r s).qblk = s.qblk := rfl
@[simp] theorem returnToHost_zblk : (returnToHost r s).zblk = s.zblk := rfl
@[simp] theorem returnToHost_qt : (returnToHost r s).qt = s.qt := rfl
@[simp] theorem returnToHost_pixmem : (returnToHost r s).pixmem = s.pixmem := rfl
@[simp] theorem returnToHost_outmem : (returnToHost r s).outmem = s.outmem := rfl
@[simp] theorem returnToHost_sched : (returnToHost r s).sched = s.sched := rfl
@[simp] theorem returnToHost_reads : (returnToHost r s).reads = r :: s.reads := rfl
end

section
variable (s : State)
@[simp] theorem assertReset_params : (assertReset s).params = s.params := rfl
@[simp] theorem assertReset_phase : (assertReset s).phase = .idle := rfl
@[simp] theorem assertReset_badcmd : (assertReset s).badcmd = false := rfl
@[simp] theorem assertReset_width : (assertReset s).width = 0 := rfl
@[simp] theorem assertReset_height : (assertReset s).height = 0 := rfl
@[simp] theorem assertReset_quality : (assertReset s).quality = 70 := rfl
@[simp] theorem assertReset_pixLen : (assertReset s).pixLen = 0 := rfl
@[simp] theorem assertReset_err : (assertReset s).err = 0 := rfl
@[simp] theorem assertReset_errInfo : (assertReset s).errInfo = 0 := rfl
@[simp] theorem assertReset_uop : (assertReset s).uop = 0 := rfl
@[simp] theorem assertReset_mx : (assertReset s).mx = 0 := rfl
@[simp] theorem assertReset_my : (assertReset s).my = 0 := rfl
@[simp] theorem assertReset_bi : (assertReset s).bi = 0 := rfl
@[simp] theorem assertReset_pred : (assertReset s).pred = Vector.replicate 3 0 := rfl
@[simp] theorem assertReset_bitacc : (assertReset s).bitacc = 0 := rfl
@[simp] theorem assertReset_bitcnt : (assertReset s).bitcnt = 0 := rfl
@[simp] theorem assertReset_wp : (assertReset s).wp = 0 := rfl
@[simp] theorem assertReset_mcu : (assertReset s).mcu = s.mcu := rfl
@[simp] theorem assertReset_sblk : (assertReset s).sblk = s.sblk := rfl
@[simp] theorem assertReset_fblk : (assertReset s).fblk = s.fblk := rfl
@[simp] theorem assertReset_qblk : (assertReset s).qblk = s.qblk := rfl
@[simp] theorem assertReset_zblk : (assertReset s).zblk = s.zblk := rfl
@[simp] theorem assertReset_qt : (assertReset s).qt = s.qt := rfl
@[simp] theorem assertReset_pixmem : (assertReset s).pixmem = s.pixmem := rfl
@[simp] theorem assertReset_outmem : (assertReset s).outmem = s.outmem := rfl
@[simp] theorem assertReset_sched : (assertReset s).sched = s.sched := rfl
@[simp] theorem assertReset_reads : (assertReset s).reads = s.reads := rfl
end

/-- ERR after error entry (spec/60_exceptions.md R288). -/
theorem enterError_err (i : Instr) (c : ErrorCode) (e : BitVec 4) (s : State) :
    (enterError i c e s).err =
      errWord (errorCodeBits c) e (stageCode i) (if inBlock i then BitVec.ofNat 2 (compOf s.bi).val else 3)
        (if inBlock i then BitVec.ofNat 3 s.bi.val else 7) := rfl

end Sys2Proof.Machine
end

