-- ==== Sys2Proof/Laws/Ops.lean ====
section
/-! SUPPORT. Laws/Ops.lean: for each shared operation, once, everything it can do: the bitstream writer against the bit
string it writes, the end of a micro-operation, and the choice of the next step. -/

namespace Sys2Proof.Machine

/-! ### Attempts -/

@[simp] theorem andThen_done (s : State) (f : State → Attempt) : (Attempt.done s).andThen f = f s := rfl

@[simp] theorem andThen_raised (c : ErrorCode) (e : BitVec 4) (s : State) (f : State → Attempt) :
    (Attempt.raised c e s).andThen f = .raised c e s := rfl

theorem andThen_assoc (r : Attempt) (f g : State → Attempt) :
    (r.andThen f).andThen g = r.andThen fun s => (f s).andThen g := by
  cases r <;> rfl

theorem andThen_pure (r : Attempt) : r.andThen .done = r := by
  cases r <;> rfl

/-- What a sequence that completes comes from. -/
theorem andThen_eq_done {r : Attempt} {f : State → Attempt} {t : State} :
    r.andThen f = .done t ↔ ∃ s, r = .done s ∧ f s = .done t := by
  cases r <;> simp

/-- What a sequence that raises comes from. -/
theorem andThen_eq_raised {r : Attempt} {f : State → Attempt} {c : ErrorCode} {e : BitVec 4} {t : State} :
    r.andThen f = .raised c e t ↔ r = .raised c e t ∨ ∃ s, r = .done s ∧ f s = .raised c e t := by
  cases r <;> simp

@[simp] theorem finish_done (i : Instr) (s : State) : finish i (.done s) = advance i s := rfl

@[simp] theorem finish_raised (i : Instr) (c : ErrorCode) (e : BitVec 4) (s : State) :
    finish i (.raised c e s) = .next (enterError i c e s) := rfl

/-! ### Where a micro-operation stops -/

/-- Every advance but HAC's answers a next state. -/
theorem advance_next {i : Instr} (h : i ≠ .hac) (s : State) : ∃ t, advance i s = .next t := by
  cases i <;> first | exact ⟨_, rfl⟩ | exact absurd rfl h

/-- The end of every micro-operation but HAC answers a next state. -/
theorem finish_next {i : Instr} (h : i ≠ .hac) (r : Attempt) : ∃ t, finish i r = .next t := by
  cases r with
  | done s => exact advance_next h s
  | raised c e s => exact ⟨_, rfl⟩

/-- HAC's advance has a row of spec/40_driver.md R134, or the block lies outside the image. -/
theorem advanceHac_next_or_fault (s : State) :
    (∃ t, advanceHac s = .next t) ∨ (NoAdvance s ∧ advanceHac s = .fault .sequencerOutside) := by
  have hb := s.bi.isLt
  simp only [advanceHac]
  split
  · exact .inl ⟨_, rfl⟩
  · split
    · exact .inl ⟨_, rfl⟩
    · split
      · exact .inl ⟨_, rfl⟩
      · split
        · exact .inl ⟨_, rfl⟩
        · refine .inr ⟨⟨Fin.ext ?_, ?_⟩, rfl⟩
          · have : (5 : Fin 6).val = 5 := rfl
            omega
          · omega

theorem mcuFetchInside_iff (s : State) : mcuFetchInside s = true ↔ ¬ FetchOutside s := by
  simp only [mcuFetchInside, FetchOutside, Bool.and_eq_true, bne_iff_ne, decide_eq_true_eq, not_or, Nat.not_le, and_assoc,
    ne_eq]

/-! ### EmitByte -/

theorem emitByte_of_room {s : State} (h : s.wp.toNat < s.params.outBytes) (b : Byte) :
    emitByte b s = .done (s.appendByte b) := by
  simp only [emitByte]
  rw [if_neg (by omega)]

theorem emitByte_of_full {s : State} (h : s.params.outBytes ≤ s.wp.toNat) (b : Byte) :
    emitByte b s = .raised .encodingError 1 s := by
  simp only [emitByte]
  rw [if_pos h]

/-- WP does not wrap where there is room: OUT_BYTES is at most 2^32 - 1. -/
theorem wp_succ_toNat {s : State} (h : s.wp.toNat < s.params.outBytes) : (s.wp + 1).toNat = s.wp.toNat + 1 := by
  have := s.params.outBytes_le
  have h1 : (1 : Word).toNat = 1 := rfl
  rw [BitVec.toNat_add, h1]
  omega

/-- `s` with the bytes appended to OUTMEM, where WP does not overrun. -/
def State.appendList (s : State) (bs : List Byte) : State :=
  { s with outmem := s.outmem.writeList s.wp.toNat bs, wp := s.wp + BitVec.ofNat 32 bs.length }

@[simp] theorem appendList_nil (s : State) : s.appendList [] = s := by
  simp [State.appendList]

theorem appendList_wp {s : State} {bs : List Byte} (h : s.wp.toNat + bs.length ≤ s.params.outBytes) :
    (s.appendList bs).wp.toNat = s.wp.toNat + bs.length := by
  have := s.params.outBytes_le
  simp only [State.appendList, BitVec.toNat_add, BitVec.toNat_ofNat]
  omega

theorem appendByte_appendList {s : State} (h : s.wp.toNat < s.params.outBytes) (b : Byte) (bs : List Byte) :
    (s.appendByte b).appendList bs = s.appendList (b :: bs) := by
  simp only [State.appendList, State.appendByte, wp_succ_toNat h, Memory.writeList_cons, List.length_cons]
  congr 1
  rw [Nat.add_comm bs.length 1, BitVec.ofNat_add, BitVec.add_assoc]
  rfl

theorem appendList_appendList {s : State} {xs ys : List Byte} (h : s.wp.toNat + xs.length ≤ s.params.outBytes) :
    (s.appendList xs).appendList ys = s.appendList (xs ++ ys) := by
  have hw := appendList_wp h
  simp only [State.appendList] at hw ⊢
  simp only [hw, Memory.writeList_append, List.length_append, BitVec.ofNat_add, BitVec.add_assoc]

/-- What appending does, through the read of one byte. -/
theorem appended_appendList {s : State} {bs : List Byte} (h : s.wp.toNat + bs.length ≤ s.params.outBytes) :
    Appended s (s.appendList bs) bs := by
  refine ⟨appendList_wp h, fun k hk => ?_, fun a ha => ?_⟩
  · simp only [outByte, State.appendList, Memory.read_writeList_inside _ _ _ hk, List.getElem?_eq_getElem hk,
      Option.getD_some]
  · simp only [outByte, State.appendList, Memory.read_writeList_outside _ _ _ ha]

/-- EVERYTHING A LIST OF EmitBytes CAN DO: it completes exactly where there is room for all of the bytes; else it raises
OUTPUT_OVERFLOW with OUTMEM full up to OUT_BYTES. -/
theorem emitBytes_spec (bs : List Byte) (s : State) (hw : s.wp.toNat ≤ s.params.outBytes) :
    emitBytes bs s =
      if s.wp.toNat + bs.length ≤ s.params.outBytes then .done (s.appendList bs)
      else .raised .encodingError 1 (s.appendList (bs.take (s.params.outBytes - s.wp.toNat))) := by
  induction bs generalizing s with
  | nil => simp [emitBytes, hw]
  | cons b bs ih =>
    simp only [emitBytes]
    by_cases h : s.wp.toNat < s.params.outBytes
    · have hp : (s.appendByte b).params = s.params := rfl
      have hn : (s.appendByte b).wp.toNat = s.wp.toNat + 1 := wp_succ_toNat h
      rw [emitByte_of_room h, andThen_done, ih _ (by rw [hn, hp]; omega), hn, hp]
      simp only [List.length_cons, appendByte_appendList h]
      have e : s.params.outBytes - s.wp.toNat = (s.params.outBytes - (s.wp.toNat + 1)) + 1 := by omega
      rw [e, List.take_succ_cons, show s.wp.toNat + 1 + bs.length = s.wp.toNat + (bs.length + 1) by omega]
    · have e : s.params.outBytes - s.wp.toNat = 0 := by omega
      rw [emitByte_of_full (by omega), andThen_raised, if_neg (by simp only [List.length_cons]; omega), e,
        List.take_zero, appendList_nil]

/-! ### PutBits -/

/-- The bits of a list, one turn of PutBits' loop each. -/
def putBitList : List Bool → State → Attempt
  | [], s => .done s
  | b :: bs, s => (putBit b s).andThen (putBitList bs)

theorem putBitList_append (xs ys : List Bool) (s : State) :
    putBitList (xs ++ ys) s = (putBitList xs s).andThen (putBitList ys) := by
  induction xs generalizing s with
  | nil => rfl
  | cons x xs ih =>
    simp only [List.cons_append, putBitList, andThen_assoc]
    congr 1
    funext s'
    exact ih s'

/-- PutBits writes the bits of its value, most significant first. -/
theorem putBits_eq_list (v n : Nat) (s : State) : putBits v n s = putBitList (bitsOf v n) s := by
  induction n generalizing s with
  | zero => rfl
  | succ n ih =>
    simp only [putBits, bitsOf, putBitList]
    congr 1
    funext s'
    exact ih s'

@[simp] theorem bitsOf_length (v n : Nat) : (bitsOf v n).length = n := by
  induction n with
  | zero => rfl
  | succ n ih => simp [bitsOf, ih]

theorem natOfBits_append_singleton (xs : List Bool) (b : Bool) :
    natOfBits (xs ++ [b]) = natOfBits xs * 2 + b.toNat := by
  simp [natOfBits]

theorem natOfBits_lt (xs : List Bool) : natOfBits xs < 2 ^ xs.length := by
  suffices h : ∀ ys : List Bool, natOfBits ys.reverse < 2 ^ ys.length by
    simpa using h xs.reverse
  intro ys
  induction ys with
  | nil => simp [natOfBits]
  | cons y ys ih =>
    rw [List.reverse_cons, natOfBits_append_singleton, List.length_cons, Nat.pow_succ]
    have : y.toNat ≤ 1 := y.toNat_le
    omega

theorem foldl_bits (xs : List Bool) (a : Nat) :
    xs.foldl (fun a b => a * 2 + b.toNat) a = a * 2 ^ xs.length + natOfBits xs := by
  induction xs generalizing a with
  | nil => simp [natOfBits]
  | cons x xs ih =>
    have h0 := ih x.toNat
    simp only [natOfBits, List.foldl_cons, List.length_cons, Nat.zero_mul, Nat.zero_add] at h0 ⊢
    rw [ih, h0, Nat.pow_succ, Nat.add_mul, Nat.mul_assoc, Nat.mul_comm 2, Nat.add_assoc]
    rfl

theorem natOfBits_cons (b : Bool) (xs : List Bool) :
    natOfBits (b :: xs) = b.toNat * 2 ^ xs.length + natOfBits xs := by
  have := foldl_bits xs b.toNat
  simpa [natOfBits] using this

/-- Reading the bits of a number back gives the number modulo the width. -/
theorem natOfBits_bitsOf (v n : Nat) : natOfBits (bitsOf v n) = v % 2 ^ n := by
  induction n with
  | zero => simp [bitsOf, natOfBits, Nat.mod_one]
  | succ n ih =>
    rw [bitsOf, natOfBits_cons, ih, bitsOf_length, Nat.mod_pow_succ, Nat.toNat_testBit, Nat.mul_comm, Nat.add_comm]

theorem testBit_natOfBits_cons (b : Bool) (xs : List Bool) : (natOfBits (b :: xs)).testBit xs.length = b := by
  rw [natOfBits_cons, Nat.mul_comm, Nat.testBit_two_pow_mul_add _ (natOfBits_lt xs)]
  cases b <;> simp

theorem bitsOf_mod (v n m : Nat) (h : n ≤ m) : bitsOf (v % 2 ^ m) n = bitsOf v n := by
  induction n with
  | zero => rfl
  | succ n ih =>
    rw [bitsOf, bitsOf, ih (by omega), Nat.testBit_mod_two_pow]
    simp [show n < m by omega]

/-- The bits of the number that a list of bits stands for are the list. -/
theorem bitsOf_natOfBits (xs : List Bool) : bitsOf (natOfBits xs) xs.length = xs := by
  induction xs with
  | nil => rfl
  | cons x xs ih =>
    rw [List.length_cons, bitsOf, testBit_natOfBits_cons, natOfBits_cons]
    congr 1
    have h : (x.toNat * 2 ^ xs.length + natOfBits xs) % 2 ^ xs.length = natOfBits xs := by
      rw [Nat.mul_add_mod_self_right, Nat.mod_eq_of_lt (natOfBits_lt xs)]
    rw [← bitsOf_mod _ _ _ (Nat.le_refl _), h, ih]

/-- The state whose BITACC and BITCNT hold the given pending bits. -/
def State.withPending (s : State) (bits : List Bool) : State :=
  s.setBits (BitVec.ofNat 8 (natOfBits bits)) (Fin.ofNat 8 bits.length)

/-- A state whose unused bits are 0 is given by its pending bits. -/
theorem withPending_pendingBits {s : State} (h : BitsClean s) : s.withPending (pendingBits s) = s := by
  have h1 : natOfBits (pendingBits s) = s.bitacc.toNat := by
    rw [pendingBits, natOfBits_bitsOf, Nat.mod_eq_of_lt h]
  have h2 : (pendingBits s).length = s.bitcnt.val := bitsOf_length _ _
  have h3 : BitVec.ofNat 8 s.bitacc.toNat = s.bitacc := by simp
  have h4 : Fin.ofNat 8 s.bitcnt.val = s.bitcnt := by
    apply Fin.ext
    simp [Fin.ofNat, Nat.mod_eq_of_lt s.bitcnt.isLt]
  simp only [State.withPending, h1, h2, h3, h4, State.setBits]

theorem pendingBits_withPending {s : State} {bits : List Bool} (h : bits.length < 8) :
    pendingBits (s.withPending bits) = bits := by
  have hl := natOfBits_lt bits
  have : (2 : Nat) ^ bits.length ≤ 2 ^ 8 := Nat.pow_le_pow_right (by omega) (by omega)
  simp only [pendingBits, State.withPending, State.setBits, BitVec.toNat_ofNat, Fin.ofNat]
  rw [Nat.mod_eq_of_lt (by omega), Nat.mod_eq_of_lt h, bitsOf_natOfBits]

theorem bitsClean_withPending {s : State} {bits : List Bool} (h : bits.length < 8) :
    BitsClean (s.withPending bits) := by
  have hl := natOfBits_lt bits
  simp only [BitsClean, State.withPending, State.setBits, BitVec.toNat_ofNat, Fin.ofNat]
  rw [Nat.mod_eq_of_lt h]
  exact Nat.lt_of_le_of_lt (Nat.mod_le _ _) hl

/-- What one turn of the loop computes from the pending bits. -/
theorem putBit_withPending (b : Bool) (acc : List Bool) (s : State) (h : acc.length < 8) :
    putBit b (s.withPending acc) =
      if acc.length + 1 = 8 then
        emitStuffed (BitVec.ofNat 8 (natOfBits (acc ++ [b]))) (s.setBits (BitVec.ofNat 8 (natOfBits (acc ++ [b]))) 0)
      else .done (s.withPending (acc ++ [b])) := by
  have hl := natOfBits_lt acc
  have hp : (2 : Nat) ^ acc.length ≤ 2 ^ 8 := Nat.pow_le_pow_right (by omega) (by omega)
  have ha : (BitVec.ofNat 8 (natOfBits acc)).toNat * 2 + b.toNat = natOfBits (acc ++ [b]) := by
    rw [natOfBits_append_singleton, BitVec.toNat_ofNat, Nat.mod_eq_of_lt (by omega)]
  have hc : (Fin.ofNat 8 acc.length).val = acc.length := by simp [Fin.ofNat, Nat.mod_eq_of_lt h]
  simp only [putBit, State.withPending, State.setBits, ha, hc, List.length_append, List.length_singleton]

theorem packBits_rest_length (acc bits : List Bool) (h : acc.length < 8) : (packBits acc bits).2.length < 8 := by
  induction bits generalizing acc with
  | nil => exact h
  | cons b bs ih =>
    simp only [packBits]
    split
    · exact ih [] (by simp)
    · exact ih _ (by simp only [List.length_append, List.length_singleton]; omega)

/-- The state of `s` after an overflow while `b` was being completed: the bytes that fit were written. -/
def overflowState (s : State) (bytes : List Byte) (b : Byte) : State :=
  (s.appendList (bytes.take (s.params.outBytes - s.wp.toNat))).setBits b 0

/-- A completed byte: it and its stuffing are appended where they fit, and the accumulator is then empty. -/
theorem emitStuffed_spec (b : Byte) (s : State) (hw : s.wp.toNat ≤ s.params.outBytes) :
    emitStuffed b s =
      if s.wp.toNat + (stuffed b).length ≤ s.params.outBytes then .done ((s.appendList (stuffed b)).setBits 0 0)
      else .raised .encodingError 1 (s.appendList ((stuffed b).take (s.params.outBytes - s.wp.toNat))) := by
  have e : emitStuffed b s = (emitBytes (stuffed b) s).andThen fun t => .done (t.setBits 0 0) := by
    by_cases hb : b = 0xFF
    · simp only [emitStuffed, stuffed, hb, if_true, emitBytes, andThen_pure]
    · simp only [emitStuffed, stuffed, hb, if_false, emitBytes]
  rw [e, emitBytes_spec _ _ hw]
  split <;> rfl

theorem emitStuffed_setBits_room (b x : Byte) {s : State}
    (h : s.wp.toNat + (stuffed b).length ≤ s.params.outBytes) :
    emitStuffed b (s.setBits x 0) = .done ((s.appendList (stuffed b)).withPending []) :=
  (emitStuffed_spec b (s.setBits x 0) (Nat.le_trans (Nat.le_add_right _ _) h)).trans (if_pos h)

theorem emitStuffed_setBits_full (b x : Byte) {s : State} (hw : s.wp.toNat ≤ s.params.outBytes)
    (h : ¬ s.wp.toNat + (stuffed b).length ≤ s.params.outBytes) :
    emitStuffed b (s.setBits x 0) = .raised .encodingError 1 (overflowState s (stuffed b) x) :=
  (emitStuffed_spec b (s.setBits x 0) hw).trans (if_neg h)

/-- EVERYTHING PutBits CAN DO to a writer whose unused bits are 0, where the bytes that the bits complete fit: they are
appended, and the rest of the bits is pending. -/
theorem putBitList_done (bits acc : List Bool) (s : State) (ha : acc.length < 8)
    (h : s.wp.toNat + (packBits acc bits).1.length ≤ s.params.outBytes) :
    putBitList bits (s.withPending acc) =
      .done ((s.appendList (packBits acc bits).1).withPending (packBits acc bits).2) := by
  induction bits generalizing acc s with
  | nil => simp [putBitList, packBits]
  | cons b bs ih =>
    simp only [putBitList, putBit_withPending b acc s ha]
    by_cases h8 : acc.length + 1 = 8
    · simp only [packBits, if_pos h8, List.length_append] at h ⊢
      have hf : s.wp.toNat + (stuffed (BitVec.ofNat 8 (natOfBits (acc ++ [b])))).length ≤ s.params.outBytes := by
        omega
      rw [emitStuffed_setBits_room _ _ hf, andThen_done]
      have hw' := appendList_wp (s := s) (bs := stuffed (BitVec.ofNat 8 (natOfBits (acc ++ [b])))) (by omega)
      have hp' : (s.appendList (stuffed (BitVec.ofNat 8 (natOfBits (acc ++ [b]))))).params = s.params := rfl
      rw [ih [] _ (by simp) (by rw [hw', hp']; omega), appendList_appendList (by omega)]
    · simp only [packBits, if_neg h8] at h ⊢
      simp only [andThen_done]
      exact ih _ _ (by simp only [List.length_append, List.length_singleton]; omega) h

/-- Where the bytes that the bits complete do not fit, PutBits raises OUTPUT_OVERFLOW; what changed before is in OUTMEM,
WP, BITACC and BITCNT only, and OUTMEM is full. -/
theorem putBitList_raised (bits acc : List Bool) (s : State) (ha : acc.length < 8) (hw : s.wp.toNat ≤ s.params.outBytes)
    (h : s.params.outBytes < s.wp.toNat + (packBits acc bits).1.length) :
    ∃ x : Byte, putBitList bits (s.withPending acc) =
      .raised .encodingError 1 (overflowState s (packBits acc bits).1 x) := by
  induction bits generalizing acc s with
  | nil =>
    simp only [packBits, List.length_nil] at h
    omega
  | cons b bs ih =>
    simp only [putBitList, putBit_withPending b acc s ha]
    by_cases h8 : acc.length + 1 = 8
    · simp only [packBits, if_pos h8, List.length_append] at h ⊢
      by_cases hf : s.wp.toNat + (stuffed (BitVec.ofNat 8 (natOfBits (acc ++ [b])))).length ≤ s.params.outBytes
      · rw [emitStuffed_setBits_room _ _ hf, andThen_done]
        have hw' := appendList_wp hf
        have hp' : (s.appendList (stuffed (BitVec.ofNat 8 (natOfBits (acc ++ [b]))))).params = s.params := rfl
        obtain ⟨x, hx⟩ := ih [] (s.appendList (stuffed (BitVec.ofNat 8 (natOfBits (acc ++ [b]))))) (by simp)
          (by rw [hw', hp']; omega) (by rw [hw', hp']; omega)
        refine ⟨x, ?_⟩
        rw [hx]
        congr 1
        simp only [overflowState]
        rw [hw', hp', appendList_appendList hf]
        congr 2
        have e2 : s.params.outBytes - s.wp.toNat =
            (stuffed (BitVec.ofNat 8 (natOfBits (acc ++ [b])))).length +
              (s.params.outBytes - (s.wp.toNat + (stuffed (BitVec.ofNat 8 (natOfBits (acc ++ [b])))).length)) := by
          omega
        rw [e2, List.take_length_add_append]
      · rw [emitStuffed_setBits_full _ _ hw hf, andThen_raised]
        refine ⟨BitVec.ofNat 8 (natOfBits (acc ++ [b])), ?_⟩
        rw [overflowState, overflowState, List.take_append_of_le_length (by omega)]
    · simp only [packBits, if_neg h8] at h ⊢
      simp only [andThen_done]
      exact ih _ _ (by simp only [List.length_append, List.length_singleton]; omega) hw h

/-- Packing bits in two parts. -/
theorem packBits_append (acc xs ys : List Bool) :
    packBits acc (xs ++ ys) =
      ((packBits acc xs).1 ++ (packBits (packBits acc xs).2 ys).1, (packBits (packBits acc xs).2 ys).2) := by
  induction xs generalizing acc with
  | nil => simp [packBits]
  | cons x xs ih =>
    simp only [List.cons_append, packBits]
    split
    · simp [ih, List.append_assoc]
    · exact ih _

/-! ### PutHuff -/

theorem putHuff_of_lookup {t : Fin 2} {cls : HuffClass} {sym : Nat} {e : HuffEntry}
    (h : huffLookup cls t sym = some e) (s : State) :
    putHuff t cls sym s = putBitList (huffBits t cls sym) s := by
  simp only [putHuff, h, huffBits, putBits_eq_list]

/-! ### The next step -/

theorem step_run {s s' : State} {i : Instr} (h : nextAction s = .run i s') : step s = exec i s' := by
  simp only [step, h]

theorem step_settle {s s' : State} (h : nextAction s = .settle s') : step s = .next s' := by
  simp only [step, h]

theorem coreAction_of_busy {s : State} {i : Instr} (hb : s.phase = .busy) (hd : decodeUop s.uop = .ok i) :
    coreAction s = .run i s := by
  simp only [coreAction, hb, hd, if_true]

theorem coreAction_of_not_busy {s : State} (hb : s.phase ≠ .busy) : coreAction s = .settle s := by
  simp only [coreAction, hb, if_false]

end Sys2Proof.Machine
end

