-- ==== Sys2Proof/Laws/Entropy.lean ====
section
/-! SUPPORT. Laws/Entropy.lean: which symbols have codes, and HDC and HAC as the bit strings they write. -/

namespace Sys2Proof.Machine

/-! ### Symbols with a code -/

theorem huffLookup_dc (t : Fin 2) (n : Fin 12) : (huffLookup .dc t n.val).isSome = true := by
  revert t n
  decide

theorem huffLookup_zrl (t : Fin 2) : (huffLookup .ac t 0xF0).isSome = true := by
  revert t
  decide

theorem huffLookup_eob (t : Fin 2) : (huffLookup .ac t 0x00).isSome = true := by
  revert t
  decide

/-- The row of AC symbols of one table and one run. -/
def acRowCoded (t : Fin 2) (r : Nat) : Bool := (List.range 10).all fun n => (huffLookup .ac t (r * 16 + (n + 1))).isSome

theorem acRowCoded_luma : (List.range 16).all (acRowCoded 0) = true := by decide

theorem acRowCoded_chroma : (List.range 16).all (acRowCoded 1) = true := by decide

/-- Every symbol of a run 0 .. 15 and a category 1 .. 10 has a code (spec/46_entropy.md R226). -/
theorem huffLookup_ac (t : Fin 2) {r n : Nat} (hr : r ≤ 15) (h1 : 1 ≤ n) (hn : n ≤ 10) :
    (huffLookup .ac t (r * 16 + n)).isSome = true := by
  have ht : (List.range 16).all (acRowCoded t) = true := by
    match t with
    | 0 => exact acRowCoded_luma
    | 1 => exact acRowCoded_chroma
  have h := List.all_eq_true.mp (List.all_eq_true.mp ht r (List.mem_range.mpr (by omega))) (n - 1)
    (List.mem_range.mpr (by omega))
  rwa [show n - 1 + 1 = n by omega] at h

theorem putHuff_eq_list {t : Fin 2} {cls : HuffClass} {sym : Nat} (h : (huffLookup cls t sym).isSome = true)
    (s : State) : putHuff t cls sym s = putBitList (huffBits t cls sym) s := by
  obtain ⟨e, he⟩ := Option.isSome_iff_exists.mp h
  exact putHuff_of_lookup he s

theorem putAmp_eq_list (v : Int) : putAmp v (cat v) = putBitList (ampBits v) := by
  funext s
  simp only [putAmp, ampBits, putBits_eq_list]

/-! ### Categories -/

theorem bitlen_pos {m : Nat} (h : m ≠ 0) : 1 ≤ bitlen m := by
  simp only [bitlen, if_neg h]
  omega

theorem cat_pos {v : Int} (h : v ≠ 0) : 1 ≤ cat v := bitlen_pos (by omega)

/-! ### Items -/

/-- A block's DC item, where its category has a code (spec/46_entropy.md R223). -/
theorem codeDc_of_coded {s : State} (h : cat (dcDiff s) ≤ 11) :
    codeDc s =
      (putBitList (dcBits (tabOf s.bi) (dcDiff s)) s).andThen fun t => .done (t.setPred (compOf s.bi) s.zblk[0]) := by
  have hl := huffLookup_dc (tabOf s.bi) ⟨cat (dcDiff s), by omega⟩
  simp only [codeDc]
  rw [if_neg (by omega), putHuff_eq_list hl, dcBits, putBitList_append]
  simp only [putAmp_eq_list]

/-- A DC category above 11 has no code (spec/46_entropy.md R225). -/
theorem codeDc_of_uncoded {s : State} (h : 11 < cat (dcDiff s)) : codeDc s = .raised .symbolOverflow 1 s := by
  simp only [codeDc]
  rw [if_pos h]

theorem putZrls_eq_list (t : Fin 2) (n : Nat) (s : State) :
    putZrls t n s = putBitList ((List.replicate n AcItem.zrl).flatMap (itemBits t)) s := by
  induction n generalizing s with
  | zero => rfl
  | succ n ih =>
    simp only [putZrls, putHuff_eq_list (huffLookup_zrl t), List.replicate_succ, List.flatMap_cons, putBitList_append,
      itemBits]
    congr 1
    funext s'
    exact ih s'

/-- A coefficient's items, where its category has a code (spec/46_entropy.md R224). -/
theorem putCoef_of_coded (t : Fin 2) (r : Nat) {v : Int} (h0 : v ≠ 0) (h : cat v ≤ 10) (s : State) :
    putCoef t r v s = putBitList ((coefItems r v).flatMap (itemBits t)) s := by
  have hl := huffLookup_ac t (r := r % 16) (by omega) (cat_pos h0) h
  simp only [putCoef, coefItems, List.flatMap_append, putBitList_append, putZrls_eq_list]
  congr 1
  funext s'
  rw [if_neg (by omega), putHuff_eq_list hl]
  simp only [List.flatMap_cons, List.flatMap_nil, List.append_nil, itemBits, putBitList_append, putAmp_eq_list]

/-- A block's AC items, where every category has a code (spec/46_entropy.md R224). -/
theorem codeAc_of_coded (t : Fin 2) (vs : List Coef) (r : Nat) (s : State) (h : ∀ v ∈ vs, cat v.toInt ≤ 10) :
    codeAc t vs r s = putBitList ((acItems (vs.map BitVec.toInt) r).flatMap (itemBits t)) s := by
  induction vs generalizing r s with
  | nil =>
    simp only [codeAc, List.map_nil, acItems]
    split
    · simp [putHuff_eq_list (huffLookup_eob t), itemBits]
    · rfl
  | cons v vs ih =>
    have hv : v = 0 ↔ v.toInt = 0 := by
      constructor
      · rintro rfl
        rfl
      · intro e
        exact BitVec.eq_of_toInt_eq (e.trans rfl)
    simp only [codeAc, List.map_cons, acItems]
    by_cases e : v = 0
    · rw [if_pos e, if_pos (hv.mp e)]
      exact ih _ _ fun w hw => h w (List.mem_cons_of_mem _ hw)
    · rw [if_neg e, if_neg (fun c => e (hv.mpr c)), List.flatMap_append, putBitList_append,
        putCoef_of_coded t r (fun c => e (hv.mpr c)) (h v List.mem_cons_self)]
      congr 1
      funext s'
      exact ih _ _ fun w hw => h w (List.mem_cons_of_mem _ hw)

/-- A block with a coefficient whose category has no code: the items before it are written, then SymbolOverflow is raised
(spec/46_entropy.md R225). -/
theorem codeAc_of_uncoded (t : Fin 2) (vs : List Coef) (r : Nat) (s : State) (h : ∃ v ∈ vs, 10 < cat v.toInt) :
    codeAc t vs r s =
      (putBitList ((itemsBeforeOverflow (vs.map BitVec.toInt) r).flatMap (itemBits t)) s).andThen
        (.raised .symbolOverflow 2) := by
  induction vs generalizing r s with
  | nil => simp at h
  | cons v vs ih =>
    have hv : v = 0 ↔ v.toInt = 0 := by
      constructor
      · rintro rfl
        rfl
      · intro e
        exact BitVec.eq_of_toInt_eq (e.trans rfl)
    have hrest : ¬ 10 < cat v.toInt → ∃ w ∈ vs, 10 < cat w.toInt := by
      intro hn
      obtain ⟨w, hw, h10⟩ := h
      rcases List.mem_cons.mp hw with rfl | hw
      · exact absurd h10 hn
      · exact ⟨w, hw, h10⟩
    simp only [codeAc, List.map_cons, itemsBeforeOverflow]
    by_cases e : v = 0
    · rw [if_pos e, if_pos (hv.mp e)]
      exact ih _ _ (hrest (by rw [hv.mp e]; decide))
    · have e' : ¬ v.toInt = 0 := fun c => e (hv.mpr c)
      rw [if_neg e, if_neg e']
      by_cases h10 : 10 < cat v.toInt
      · simp only [putCoef, if_pos h10, putZrls_eq_list, andThen_assoc, andThen_raised]
      · rw [if_neg h10, putCoef_of_coded t r e' (by omega), List.flatMap_append, putBitList_append, andThen_assoc]
        congr 1
        funext s'
        exact ih _ _ (hrest h10)

end Sys2Proof.Machine
end

