-- ==== Sys2Proof/Laws/PerInstr.lean ====
section
/-! SUPPORT. Laws/PerInstr.lean: statements about every instruction as syntax, one lemma per constructor. -/

namespace Sys2Proof.Laws.CodeReadsBack

/-- The code of an instruction is in the maps of spec/30_encoding.md R91 and R92, and decodes to the instruction. -/
def Statement (i : Sys2Proof.Instr) : Prop :=
  i.wellFormed = true ∧ (Sys2Proof.encode i).wellFormed = true ∧
    Sys2Proof.decode (Sys2Proof.encode i) = .ok i

theorem nop : Statement .nop := ⟨rfl, rfl, rfl⟩
theorem start : Statement .start := ⟨rfl, rfl, rfl⟩
theorem chk : Statement .chk := ⟨rfl, rfl, rfl⟩
theorem init : Statement .init := ⟨rfl, rfl, rfl⟩
theorem qtgen : Statement .qtgen := ⟨rfl, rfl, rfl⟩
theorem wsoi : Statement .wsoi := ⟨rfl, rfl, rfl⟩
theorem wapp0 : Statement .wapp0 := ⟨rfl, rfl, rfl⟩
theorem wdqt0 : Statement .wdqt0 := ⟨rfl, rfl, rfl⟩
theorem wdqt1 : Statement .wdqt1 := ⟨rfl, rfl, rfl⟩
theorem wsof0 : Statement .wsof0 := ⟨rfl, rfl, rfl⟩
theorem wdht0 : Statement .wdht0 := ⟨rfl, rfl, rfl⟩
theorem wdht1 : Statement .wdht1 := ⟨rfl, rfl, rfl⟩
theorem wdht2 : Statement .wdht2 := ⟨rfl, rfl, rfl⟩
theorem wdht3 : Statement .wdht3 := ⟨rfl, rfl, rfl⟩
theorem wsos : Statement .wsos := ⟨rfl, rfl, rfl⟩
theorem weoi : Statement .weoi := ⟨rfl, rfl, rfl⟩
theorem csc : Statement .csc := ⟨rfl, rfl, rfl⟩
theorem blkld : Statement .blkld := ⟨rfl, rfl, rfl⟩
theorem fdct : Statement .fdct := ⟨rfl, rfl, rfl⟩
theorem quant : Statement .quant := ⟨rfl, rfl, rfl⟩
theorem zz : Statement .zz := ⟨rfl, rfl, rfl⟩
theorem hdc : Statement .hdc := ⟨rfl, rfl, rfl⟩
theorem hac : Statement .hac := ⟨rfl, rfl, rfl⟩
theorem flush : Statement .flush := ⟨rfl, rfl, rfl⟩
theorem fin : Statement .fin := ⟨rfl, rfl, rfl⟩

end Sys2Proof.Laws.CodeReadsBack
end

