-- ==== Sys2Proof/Tests/Slice0.lean ====
section
/-! SUPPORT. Tests/Slice0.lean: the model's own tests. Expected values are those of spec/95_test_vectors.md and of the
rules named at each test, never the model's own answers; each theorem named `witness_…` shows a state and operands that
meet all the hypotheses of the obligation of that name. -/

namespace Sys2Proof.Machine.Tests

/-! ### Helpers -/

/-- Program P1's image: one pixel (0x12, 0x34, 0x56), quality 70. -/
def image1 : State :=
  { State.reset with width := 1, height := 1, pixLen := 4, pixmem := [(0, 0x12), (1, 0x34), (2, 0x56), (3, 0xFF)] }

/-- P1's image with the given micro-operation next. -/
def busyAt (i : Instr) : State := { image1 with phase := .busy, uop := stageCode i }

/-- A property of the next state; false where there is none. -/
def after (o : Outcome) (p : State → Bool) : Bool :=
  match o with
  | .next t => p t
  | .fault _ => false
  | .refused _ => false

/-- The state that an attempt ends in, where it completes. -/
def completed (r : Attempt) (p : State → Bool) : Bool :=
  match r with
  | .done t => p t
  | .raised _ _ _ => false

/-- The bytes of OUTMEM in the order of their addresses. -/
def bytesOf (s : State) : List Byte := s.outmem.map Prod.snd

/-- A block of coefficients that is 0 but at the listed positions. -/
def sparse (cs : List (Nat × Coef)) : Vector Coef 64 :=
  Vector.ofFn fun n => (cs.lookup n.val).getD 0

/-- The entropy coder about to code a block. -/
def coderAt (bi : Fin 6) (prev : Coef) (z : Vector Coef 64) : State :=
  { busyAt .hdc with bi := bi, zblk := z, pred := Vector.replicate 3 prev }

/-- HDC and then HAC. -/
def codeBlock (s : State) (p : State → Bool) : Bool := after (execHdc s) fun t => after (execHac t) p

/-! ### Well-formedness: each check refuses an ill-formed term -/

theorem test_unaligned_offset_is_ill_formed : offsetAligned 0x022 = false := by decide
theorem test_aligned_offset_is_well_formed : offsetAligned 0x020 = true := by decide
theorem test_write_off_alignment_is_ill_formed : (Event.regWrite 0x009 0).wellFormed Params.default = false := by decide
theorem test_read_off_alignment_is_ill_formed : (Event.regRead 0xFFE).wellFormed Params.default = false := by decide
theorem test_pixel_write_outside_is_ill_formed : (Event.pixWrite 65536 0).wellFormed Params.default = false := by decide
theorem test_pixel_read_outside_is_ill_formed : (Event.pixRead 65536).wellFormed Params.default = false := by decide
theorem test_output_read_outside_is_ill_formed : (Event.outRead 65536).wellFormed Params.default = false := by decide
theorem test_last_pixel_byte_is_well_formed : (Event.pixRead 65535).wellFormed Params.default = true := by decide
theorem test_illegal_command_is_ill_formed : (Code.command 0x00000002).wellFormed = false := by decide
theorem test_unused_code_below_header_is_ill_formed : (Code.uop 0x0F).wellFormed = false := by decide
theorem test_unused_code_above_header_is_ill_formed : (Code.uop 0x1B).wellFormed = false := by decide
theorem test_unused_code_above_pipeline_is_ill_formed : (Code.uop 0x28).wellFormed = false := by decide

/-! ### Decoding: the words of spec/30_encoding.md R91, R92 and spec/95_test_vectors.md section 2, bit by bit -/

theorem test_decode_nop : decode (.command 0b00000000000000000000000000000000) = .ok .nop := rfl
theorem test_decode_start : decode (.command 0b00000000000000000000000000000001) = .ok .start := rfl
theorem test_decode_opcode_2 : decode (.command 0x00000002) = .error .illegalOpcode := rfl
theorem test_decode_opcode_ff : decode (.command 0x000000FF) = .error .illegalOpcode := rfl
theorem test_decode_zero_field : decode (.command 0x00000100) = .error .zeroFieldNonZero := rfl
theorem test_decode_top_bit : decode (.command 0x80000001) = .error .zeroFieldNonZero := rfl
theorem test_decode_chk : decode (.uop 0b00000001) = .ok .chk := rfl
theorem test_decode_init : decode (.uop 0b00000010) = .ok .init := rfl
theorem test_decode_qtgen : decode (.uop 0b00000011) = .ok .qtgen := rfl
theorem test_decode_wsoi : decode (.uop 0b00010000) = .ok .wsoi := rfl
theorem test_decode_wapp0 : decode (.uop 0b00010001) = .ok .wapp0 := rfl
theorem test_decode_wdqt0 : decode (.uop 0b00010010) = .ok .wdqt0 := rfl
theorem test_decode_wdqt1 : decode (.uop 0b00010011) = .ok .wdqt1 := rfl
theorem test_decode_wsof0 : decode (.uop 0b00010100) = .ok .wsof0 := rfl
theorem test_decode_wdht0 : decode (.uop 0b00010101) = .ok .wdht0 := rfl
theorem test_decode_wdht1 : decode (.uop 0b00010110) = .ok .wdht1 := rfl
theorem test_decode_wdht2 : decode (.uop 0b00010111) = .ok .wdht2 := rfl
theorem test_decode_wdht3 : decode (.uop 0b00011000) = .ok .wdht3 := rfl
theorem test_decode_wsos : decode (.uop 0b00011001) = .ok .wsos := rfl
theorem test_decode_weoi : decode (.uop 0b00011010) = .ok .weoi := rfl
theorem test_decode_csc : decode (.uop 0b00100000) = .ok .csc := rfl
theorem test_decode_blkld : decode (.uop 0b00100001) = .ok .blkld := rfl
theorem test_decode_fdct : decode (.uop 0b00100010) = .ok .fdct := rfl
theorem test_decode_quant : decode (.uop 0b00100011) = .ok .quant := rfl
theorem test_decode_zz : decode (.uop 0b00100100) = .ok .zz := rfl
theorem test_decode_hdc : decode (.uop 0b00100101) = .ok .hdc := rfl
theorem test_decode_hac : decode (.uop 0b00100110) = .ok .hac := rfl
theorem test_decode_flush : decode (.uop 0b00100111) = .ok .flush := rfl
theorem test_decode_fin : decode (.uop 0b00111111) = .ok .fin := rfl
theorem test_decode_unused_code : decode (.uop 0b00111110) = .error .unusedMicroOpCode := rfl
theorem test_table_word_fin : decodeTableWord 8 0x3F = some .fin := by decide
theorem test_table_word_start : decodeTableWord 32 1 = some .start := by decide

/-! ### Commands, configuration and the driver (section 2 and programs P3, P5, P6) -/

theorem test_nop_leaves_badcmd :
    step { State.reset with badcmd := true, sched := [.regWrite 0x00 0x00000000] } =
      .next { State.reset with badcmd := true } := rfl

theorem test_start_status :
    after (step { image1 with badcmd := true, sched := [.regWrite 0x00 0x00000001] })
      (fun t => statusWord t == 0x00000101) = true := by decide

theorem test_start_while_busy_status :
    after (step { busyAt .wsoi with sched := [.regWrite 0x00 0x00000001] }) (fun t => statusWord t == 0x00001005) = true := by
  decide

theorem test_illegal_command_status :
    after (step { State.reset with sched := [.regWrite 0x00 0x00000101] }) (fun t => statusWord t == 0x00000004) = true := by
  decide

theorem test_width_is_masked :
    after (step { State.reset with sched := [.regWrite 0x08 0x12345678] }) (fun t => regValue t 0x08 == 0x00005678) = true := by
  decide

theorem test_quality_is_masked :
    after (step { State.reset with sched := [.regWrite 0x10 0x000001FF] }) (fun t => regValue t 0x10 == 0x000000FF) = true := by
  decide

theorem test_unmapped_register_reads_zero : regValue (busyAt .hac) 0x24 = 0 := by decide

theorem test_pixel_write_while_busy_is_ignored :
    step { busyAt .wsoi with sched := [.pixWrite 0 0x00] } = .next (busyAt .wsoi) := rfl

theorem test_reset_event_keeps_the_pixels :
    after (step { busyAt .wsoi with quality := 3, sched := [.reset] })
      (fun t => t.quality == 70 && t.pixmem == image1.pixmem && t.phase == .idle) = true := by decide

theorem test_chk_accepts_p1 : after (step (busyAt .chk)) (fun t => t.uop == 0x02 && t.phase == .busy) = true := by decide

theorem test_chk_short_buffer :
    after (step { busyAt .chk with width := 2, height := 2, pixLen := 12 })
      (fun t => t.err == 0x001F0131 && t.errInfo == 0 && t.phase == .error) = true := by decide

theorem test_init_clears :
    after (step { busyAt .init with wp := 100, bitacc := 5, bitcnt := 3, mx := 2, bi := 5, pred := Vector.replicate 3 7 })
      (fun t => t.wp == 0 && t.bitcnt == 0 && t.mx == 0 && t.bi == 0 && t.pred[2] == 0 && t.uop == 0x03) = true := by
  decide

theorem test_fin_makes_the_file_visible :
    after (step { busyAt .fin with wp := 629 }) (fun t => statusWord t == 0x00000002 && outLen t == 629) = true := by decide

/-! ### The datapath (sections 3 to 6) -/

theorem test_qtgen_70 :
    after (step (busyAt .qtgen)) (fun t => t.qt[0][5] == 6 && t.qt[0][56] == 73 && t.qt[1][12] == 34) = true := by decide

theorem test_qtgen_quality_0 :
    after (step { busyAt .qtgen with quality := 0 }) (fun t => t.qt[0][63] == 255 && t.qt[1][0] == 255) = true := by decide

theorem test_csc_p1 :
    after (step (busyAt .csc)) (fun t => t.mcu.y[15][9] == 46 && t.mcu.cb[7][3] == 151 && t.mcu.cr[0][0] == 108) = true := by
  decide

/-- The 2x2 group of section 3: red, green, blue, white; the MCU's last column repeats the image's last column. -/
theorem test_csc_2x2 :
    after
      (step { busyAt .csc with
        width := 2, height := 2, pixLen := 16
        pixmem := [(0, 255), (1, 0), (2, 0), (4, 0), (5, 255), (6, 0), (8, 0), (9, 0), (10, 255), (12, 255), (13, 255),
          (14, 255)] })
      (fun t => t.mcu.y[0][0] == 76 && t.mcu.y[0][15] == 150 && t.mcu.y[15][0] == 29 && t.mcu.y[1][1] == 255 &&
        t.mcu.cb[0][0] == 128 && t.mcu.cr[0][0] == 128) = true := by decide

/-- Block 1 is the right half of the upper rows, block 2 the left half of the lower rows (spec/42_block_splitter.md R175). -/
theorem test_blkld_halves :
    after
      (step { busyAt .blkld with
        bi := 1
        mcu :=
          { y := Vector.ofFn fun j => Vector.ofFn fun i => BitVec.ofNat 8 (16 * j.val + i.val)
            cb := Vector.replicate 8 (Vector.replicate 8 0)
            cr := Vector.replicate 8 (Vector.replicate 8 0) } })
      (fun t => t.sblk[0] == 8 && t.sblk[63] == 127) = true := by decide

theorem test_fdct_flat_extremes :
    (forwardDct (Vector.replicate 64 0))[0] = -1024 ∧ (forwardDct (Vector.replicate 64 255))[0] = 1016 := by decide

/-- RAMP of section 5: the first row and column of F. -/
theorem test_fdct_ramp :
    after
      (step { busyAt .fdct with sblk := Vector.ofFn fun n => BitVec.ofNat 8 (8 * (n.val % 8) + 4 * (n.val / 8) + 50) })
      (fun t => t.fblk[0] == -288 && t.fblk[1] == -146 && t.fblk[3] == -15 && t.fblk[8] == -73 && t.fblk[24] == -8 &&
        t.fblk[9] == 0) = true := by decide

theorem test_quant_ties :
    quantize (-8) 16 = -1 ∧ quantize 7 16 = 0 ∧ quantize 24 16 = 2 ∧ quantize (-6) 11 = -1 ∧ quantize 127 255 = 0 ∧
      quantize (-1024) 1 = -1024 := by decide

/-- RAMP at Q = 70: coefficient 24 is divided by the entry of natural index 24, which is 8. -/
theorem test_quant_ramp :
    after
      (step { busyAt .quant with qt := quantTables 70, fblk := sparse [(0, -288), (1, -146), (3, -15), (8, -73), (24, -8)] })
      (fun t => t.qblk[0] == -29 && t.qblk[1] == -21 && t.qblk[3] == -2 && t.qblk[8] == -10 && t.qblk[24] == -1) = true := by
  decide

theorem test_zz_ramp :
    after (step { busyAt .zz with qblk := sparse [(0, -29), (1, -21), (3, -2), (8, -10), (24, -1)] })
      (fun t => t.zblk == sparse [(0, -29), (1, -21), (2, -10), (6, -2), (9, -1)]) = true := by decide

/-! ### The entropy coder (section 7) -/

theorem test_ent1 :
    codeBlock
      (coderAt 0 (-18) (sparse [(0, 12), (1, 5), (2, -3), (6, 1), (24, -1), (63, 2)]))
      (fun t => bytesOf t == [0xDE, 0x95, 0x3A, 0xFF, 0x00, 0x9C, 0x7F, 0x9F, 0xF3, 0xFE] && t.bitacc == 0b11010 &&
        t.bitcnt == 5 && t.pred[0] == 12) = true := by decide

theorem test_ent3 :
    codeBlock (coderAt 4 1016 (sparse [(0, -1024)]))
      (fun t => bytesOf t == [0xFF, 0x00, 0xC0, 0x1C] && t.bitcnt == 0 && t.pred[1] == -1024) = true := by decide

theorem test_ent4 :
    codeBlock (coderAt 5 3 (sparse [(0, 3), (40, -7)]))
      (fun t => bytesOf t == [0x3F, 0xAF, 0xEB, 0xFE, 0xBC] && t.bitacc == 0 && t.bitcnt == 3 && t.uop == 0x27) = true := by
  decide

/-- The ERR words of section 2 for an overflow in HAC of block 3, and in block 5 of the MCU at column 2, row 1. -/
theorem test_hac_overflow_words :
    after (execHac { busyAt .hac with params := { Params.default with outBytes := 0, outBytes_le := by decide }, bi := 3, bitcnt := 4 })
      (fun t => t.err == 0x000C2614 && t.errInfo == 0) = true ∧
    after (execHac { busyAt .hac with params := { Params.default with outBytes := 0, outBytes_le := by decide }, bi := 5, mx := 2, my := 1, bitcnt := 6 })
      (fun t => t.err == 0x00162614 && t.errInfo == 0x00010002) = true := by decide

/-- Block 5 of MCU (1,0) of a 17x17 image: the next MCU is (0,1) (spec/40_driver.md R134). -/
theorem test_hac_ends_a_row :
    after (execHac { busyAt .hac with width := 17, height := 17, bi := 5, mx := 1 })
      (fun t => t.uop == 0x20 && t.mx == 0 && t.my == 1 && t.bi == 0) = true := by decide

/-! ### The bitstream writer (section 8) -/

theorem test_bw1 :
    completed (putBits 0b101 3 image1) (fun t => after (execFlush t) fun u => bytesOf u == [0xBF] && u.bitcnt == 0) = true := by
  decide

theorem test_bw3 :
    completed (putBits 0x1FF 9 image1)
      (fun t => bytesOf t == [0xFF, 0x00] && t.bitacc == 1 && t.bitcnt == 1 && t.wp == 2) = true := by decide

theorem test_bw4 :
    completed (putBits 0x7F 7 image1) (fun t => after (execFlush t) fun u => bytesOf u == [0xFF, 0x00] && u.wp == 2) = true := by
  decide

theorem test_bw9 : completed (emitBE16 0xFF11 image1) (fun t => bytesOf t == [0xFF, 0x11]) = true := by decide

theorem test_wsoi_bytes : after (step (busyAt .wsoi)) (fun t => bytesOf t == [0xFF, 0xD8] && t.uop == 0x11) = true := by decide

theorem test_wapp0_bytes :
    after (step (busyAt .wapp0)) (fun t => bytesOf t ==
      [0xFF, 0xE0, 0x00, 0x10, 0x4A, 0x46, 0x49, 0x46, 0x00, 0x01, 0x01, 0x00, 0x00, 0x01, 0x00, 0x01, 0x00, 0x00]) = true := by
  decide

theorem test_wdqt0_length_and_end :
    after (step { busyAt .wdqt0 with qt := quantTables 70 })
      (fun t => t.wp == 69 && (bytesOf t).take 7 == [0xFF, 0xDB, 0x00, 0x43, 0x00, 10, 7] && outByte t 68 == 59) = true := by
  decide

/-- Program P5: WDQT1 from WP = 89 with OUT_BYTES = 100. -/
theorem test_wdqt1_overflow_p5 :
    after (step { busyAt .wdqt1 with params := { Params.default with outBytes := 100, outBytes_le := by decide }, wp := 89, qt := quantTables 70 })
      (fun t => t.err == 0x001F1314 && t.wp == 100 && bytesOf t == [0xFF, 0xDB, 0x00, 0x43, 0x01, 10, 11, 11, 14, 13, 14]) = true := by
  decide

/-- Bytes 158 to 176 of program P4's file: H = 9 and W = 17. -/
theorem test_wsof0_p4 :
    after (step { busyAt .wsof0 with width := 17, height := 9 }) (fun t => bytesOf t ==
      [0xFF, 0xC0, 0x00, 0x11, 0x08, 0x00, 0x09, 0x00, 0x11, 0x03, 0x01, 0x22, 0x00, 0x02, 0x11, 0x01, 0x03, 0x11, 0x01]) = true := by
  decide

theorem test_wdht0_bytes :
    after (step (busyAt .wdht0)) (fun t => bytesOf t ==
      [0xFF, 0xC4, 0x00, 0x1F, 0x00, 0x00, 0x01, 0x05, 0x01, 0x01, 0x01, 0x01, 0x01, 0x01, 0x00, 0x00, 0x00, 0x00, 0x00,
        0x00, 0x00, 0x00, 0x01, 0x02, 0x03, 0x04, 0x05, 0x06, 0x07, 0x08, 0x09, 0x0A, 0x0B]) = true := by decide

set_option maxRecDepth 10000 in
theorem test_wdht1_ends :
    after (step (busyAt .wdht1)) (fun t => t.wp == 183 && (bytesOf t).take 8 == [0xFF, 0xC4, 0x00, 0xB5, 0x10, 0x00, 0x02, 0x01]
      && outByte t 20 == 0x7D && outByte t 182 == 0xFA) = true := by decide

theorem test_wdht2_bytes :
    after (step (busyAt .wdht2)) (fun t => t.wp == 33 && (bytesOf t).take 8 == [0xFF, 0xC4, 0x00, 0x1F, 0x01, 0x00, 0x03, 0x01]) = true := by
  decide

set_option maxRecDepth 10000 in
theorem test_wdht3_ends :
    after (step (busyAt .wdht3)) (fun t => t.wp == 183 && (bytesOf t).take 8 == [0xFF, 0xC4, 0x00, 0xB5, 0x11, 0x00, 0x02, 0x01]
      && outByte t 20 == 0x77 && outByte t 182 == 0xFA) = true := by decide

theorem test_wsos_bytes :
    after (step (busyAt .wsos)) (fun t => bytesOf t ==
      [0xFF, 0xDA, 0x00, 0x0C, 0x03, 0x01, 0x00, 0x02, 0x11, 0x03, 0x11, 0x00, 0x3F, 0x00] && t.uop == 0x20) = true := by decide

theorem test_weoi_bytes : after (step (busyAt .weoi)) (fun t => bytesOf t == [0xFF, 0xD9] && t.uop == 0x3F) = true := by decide

/-! ### Witnesses: the hypotheses of each obligation can be met

A witness for several clauses shows one state for each, at a boundary value of its range. -/

/-- A machine whose host has the given access pending. -/
def hostDoes (s : State) (e : Event) : State := { s with sched := [e] }

/-- No room at all in OUTMEM. -/
def full (s : State) : State := { s with params := { Params.default with outBytes := 0, outBytes_le := by decide } }

theorem witness_DecodeAndEncodeAgree : Instr.fin.wellFormed = true ∧ decode (.uop 0x3F) = .ok .fin := ⟨rfl, rfl⟩

theorem witness_StepRunsDecodedInstruction :
    ((busyAt .fin).sched = [] ∧ (busyAt .fin).phase = .busy ∧ decode (.uop (busyAt .fin).uop) = .ok .fin) ∧
    ((hostDoes (busyAt .chk) .core).sched = .core :: [] ∧ decode (.uop (hostDoes (busyAt .chk) .core).uop) = .ok .chk) ∧
    ((hostDoes image1 (.regWrite 0x00 1)).sched = .regWrite 0x00 1 :: [] ∧ decode (.command 1) = .ok .start) :=
  ⟨⟨rfl, rfl, rfl⟩, ⟨rfl, rfl⟩, rfl, rfl⟩

theorem witness_QuiescentOutsideBusy :
    image1.phase ≠ .busy ∧ image1.sched = [] ∧ (hostDoes image1 .core).phase ≠ .busy ∧
      (hostDoes image1 .core).sched = .core :: [] := by decide

theorem witness_RefusedCommandOnlySetsBadcmd :
    (hostDoes image1 (.regWrite 0x00 2)).sched = .regWrite 0x00 2 :: [] ∧ 2 ≤ (2 : Word).toNat ∧
      (1 : Word).toNat = 1 ∧ (busyAt .chk).phase = .busy ∧
      after (step { hostDoes image1 (.regWrite 0x00 1) with badcmd := true }) (fun t => !t.badcmd) = true ∧
      after (step { hostDoes (busyAt .chk) .reset with badcmd := true }) (fun t => !t.badcmd) = true := by decide

theorem witness_ResetEventSetsResetValues : (hostDoes (busyAt .hac) .reset).sched = .reset :: [] := rfl

theorem witness_HostRegisterWrites :
    (hostDoes image1 (.regWrite 0x14 7)).sched = .regWrite 0x14 7 :: [] ∧ (0x14 : BitVec 12) ≠ 0x00 ∧
      image1.phase ≠ .busy ∧ (busyAt .chk).phase = .busy ∧ (0x04 : BitVec 12) ≠ 0x08 ∧ (0x04 : BitVec 12) ≠ 0x0C ∧
      (0x04 : BitVec 12) ≠ 0x10 ∧ (0x04 : BitVec 12) ≠ 0x14 ∧ (0x04 : BitVec 12) ≠ 0x00 := by decide

theorem witness_HostRegisterReads :
    (hostDoes image1 (.regRead 0x24)).sched = .regRead 0x24 :: [] ∧ 0x20 < (0x24 : BitVec 12).toNat ∧
      offsetAligned 0x24 = true ∧ offsetAligned 0x00 = true ∧ offsetAligned 0x21 = false := by decide

theorem witness_HostPixelAccesses :
    (hostDoes image1 (.pixWrite 65535 9)).sched = .pixWrite 65535 9 :: [] ∧ image1.phase ≠ .busy ∧
      65535 < image1.params.pixBytes ∧ image1.params.pixBytes ≤ 65536 ∧
      (hostDoes image1 (.pixRead 65536)).sched = .pixRead 65536 :: [] := by decide

theorem witness_OutReadIsGated :
    (hostDoes { image1 with phase := .done, wp := 1 } (.outRead 0)).sched = .outRead 0 :: [] ∧
      ({ image1 with phase := .done, wp := 1 } : State).wp.toNat ≤ image1.params.outBytes ∧
      0 < ({ image1 with phase := .done, wp := 1 } : State).wp.toNat ∧
      ({ image1 with phase := .done, wp := 1 } : State).wp.toNat ≤ 1 ∧ image1.phase ≠ .done := by decide

theorem witness_InputsAreConstantWhileBusy :
    (busyAt .chk).phase = .busy ∧ (hostDoes (busyAt .chk) (.pixWrite 0 0)).sched.head? ≠ some .reset ∧
      after (step (hostDoes (busyAt .chk) (.pixWrite 0 0))) (fun _ => true) = true ∧
      (hostDoes (busyAt .chk) (.regWrite 0x04 1)).sched = .regWrite 0x04 1 :: [] ∧ (0x04 : BitVec 12) ≠ 0x00 ∧
      offsetAligned 0x04 = true := by decide

theorem witness_StateTransitions :
    after (step (hostDoes image1 (.regWrite 0x00 1))) (fun t => t.phase == .busy) = true ∧
      after (step (busyAt .fin)) (fun t => t.phase == .done) = true ∧
      after (step { busyAt .chk with width := 0 }) (fun t => t.phase == .error) = true ∧
      after (step (hostDoes (busyAt .chk) .reset)) (fun t => t.phase == .idle) = true := by decide

theorem witness_StartBeginsAnEncode :
    image1.phase ≠ .busy ∧ (busyAt .fin).phase = .busy ∧ after (exec .start image1) (fun _ => true) = true := by decide

theorem witness_ChkValidatesTheArguments :
    image1.width ≠ 0 ∧ image1.height ≠ 0 ∧ image1.pixLen.toNat = image1.width.toNat * image1.height.toNat * 4 ∧
      image1.width.toNat * image1.height.toNat * 4 ≤ image1.params.pixBytes := by decide

/-- One state for each of the four checks; 128 x 129 pixels are the first not to fit (program P3's variants). -/
theorem witness_ChkValidatesTheArguments_failures :
    ({ image1 with width := 0 } : State).width = 0 ∧ ({ image1 with height := 0 } : State).height = 0 ∧
      ({ image1 with pixLen := 5 } : State).pixLen.toNat ≠ 1 * 1 * 4 ∧
      image1.params.pixBytes < (128 : BitVec 16).toNat * (129 : BitVec 16).toNat * 4 := by decide

theorem witness_ErrorEntryRecordsTheContext :
    (busyAt .chk).phase = .busy ∧ inBlock .chk = false ∧ inBlock .hdc = true ∧
      after (exec .chk { busyAt .chk with width := 0 }) (fun t => t.phase == .error) = true ∧
      after (exec .hdc { full (busyAt .hdc) with bitcnt := 7 }) (fun t => t.phase == .error) = true := by decide

theorem witness_CscConvertsTheMcu :
    (busyAt .csc).width ≠ 0 ∧ (busyAt .csc).height ≠ 0 ∧
      (busyAt .csc).width.toNat * (busyAt .csc).height.toNat * 4 ≤ (busyAt .csc).params.pixBytes := by decide

/-- Block 5 of an MCU to the right of a 1x1 image. -/
def outsideImage : State := { busyAt .hac with bi := 5, mx := 1 }

/-- A block without AC coefficients, wherever it stands. -/
theorem coefs_of_reset : acCoefs State.reset = List.replicate 63 0 := by decide

theorem small_coefs_of_reset : ∀ v ∈ acCoefs State.reset, cat v.toInt ≤ 10 := by
  rw [coefs_of_reset]
  intro v hv
  rw [List.eq_of_mem_replicate hv]
  decide

theorem outsideImage_bits : hacBits outsideImage = [false, false] := by
  have h0 : acCoefs outsideImage = List.replicate 63 0 := coefs_of_reset
  have h1 : (List.replicate 63 0 : List Coef).map BitVec.toInt = List.replicate 63 0 := by decide
  have h2 : acItems (List.replicate 63 0) 0 = [.eob] := by decide
  have h3 : itemBits 1 .eob = [false, false] := by decide
  have h4 : tabOf outsideImage.bi = 1 := by decide
  rw [hacBits, h0, h1, acBits, h2, h4]
  simp only [List.flatMap_cons, List.flatMap_nil, h3]
  rfl

theorem witness_StopsAreTheNamedOnes :
    FetchOutside State.reset ∧ ¬ FetchOutside image1 ∧ NoAdvance outsideImage ∧ BitsClean outsideImage ∧
      (∀ v ∈ acCoefs outsideImage, cat v.toInt ≤ 10) ∧ Room outsideImage (packedBytes outsideImage (hacBits outsideImage)) := by
  refine ⟨by decide, by decide, by decide, by decide, small_coefs_of_reset, ?_⟩
  rw [outsideImage_bits]
  decide

theorem witness_StopsAreTheNamedOnes_unused :
    CoreMoves { busyAt .chk with uop := 0x28 } ∧ CoreMoves { hostDoes (busyAt .chk) .core with uop := 0x28 } ∧
      ({ busyAt .chk with uop := 0x28 } : State).phase = .busy ∧
      decode (.uop ({ busyAt .chk with uop := 0x28 } : State).uop) = .error .unusedMicroOpCode ∧
      (Instr.fin ≠ .csc ∧ Instr.fin ≠ .hac) :=
  ⟨.inl rfl, .inr rfl, rfl, rfl, by decide⟩

theorem witness_ColourSamplesNeedNoClamp : (0 : Int) ≤ 255 ∧ (255 : Int) ≤ 255 ∧ (0 : Int) ≤ 1020 ∧ (1020 : Int) ≤ 1020 := by
  decide

/-- P1's image with another alpha byte. -/
theorem witness_AlphaHasNoInfluence :
    (∀ a, a % 4 ≠ 3 →
      pixByte { busyAt .csc with pixmem := [(0, 0x12), (1, 0x34), (2, 0x56), (3, 0x00)] } a = pixByte (busyAt .csc) a) ∧
    ∃ s', exec .csc (busyAt .csc) = .next s' := by
  refine ⟨fun a ha => ?_, _, rfl⟩
  have h3 : ¬ 3 = a := fun e => ha (by omega)
  simp only [pixByte, busyAt, image1, Memory.read, h3, if_false]

theorem witness_FetchesAreInsideAfterChk : ArgsOk image1 := by decide

theorem witness_BlockHoldsPlaneSamples :
    ∃ s1 t, exec .csc (busyAt .csc) = .next s1 ∧ exec .blkld { s1 with bi := 4 } = .next t := ⟨_, _, rfl, rfl⟩

theorem witness_FlatBlockHasOnlyDc : ∀ n : Fin 64, ({ busyAt .fdct with sblk := Vector.replicate 64 255 } : State).sblk[n] = 255 := by
  decide

theorem witness_TablesFallWithQuality : (0 : BitVec 8).toNat ≤ (255 : BitVec 8).toNat := by decide

theorem witness_QuantDividesTheBlock :
    ((busyAt .quant).qt[(0 : Fin 2)][zzInvTable[(5 : Fin 64)]]).toNat ≠ 0 ∧ 0 ≤ ((busyAt .quant).fblk[(5 : Fin 64)]).toInt ∧
      ((sparse [(5, -1024)])[(5 : Fin 64)]).toInt < 0 := by decide

theorem witness_QuotientIsNearestTiesAway : (255 : Byte) ≠ 0 ∧ (1 : Byte) ≠ 0 := by decide

theorem witness_ZigzagTablesAreInverse : (62 : Fin 64).val + 1 = (63 : Fin 64).val ∧ (0 : Fin 64).val + 1 = (1 : Fin 64).val := by
  decide

theorem witness_HuffmanCodesAreListedAndPrefixFree :
    (⟨0xFA, 0b1111111111111110, 16⟩ : HuffEntry) ∈ listedCodes .ac 1 ∧ huffLookup .dc 0 11 = some ⟨11, 0b111111110, 9⟩ := by
  decide

theorem witness_AmplitudeBitsDecode : (1 : Int) ≠ 0 ∧ 0 < (1 : Int) ∧ (-1 : Int) ≠ 0 ∧ (-1 : Int) < 0 := by decide

/-- The largest DC difference that can occur, category 11 (vector ENT3). -/
theorem witness_HdcCodesTheDcCoefficient :
    BitsClean (coderAt 4 1016 (sparse [(0, -1024)])) ∧ cat (dcDiff (coderAt 4 1016 (sparse [(0, -1024)]))) = 11 ∧
      Room (coderAt 4 1016 (sparse [(0, -1024)]))
        (packedBytes (coderAt 4 1016 (sparse [(0, -1024)])) (hdcBits (coderAt 4 1016 (sparse [(0, -1024)])))) := by decide

/-- An image of 2 x 2 MCUs, coding one AC coefficient. -/
def coder4 (bi : Fin 6) (mx my : BitVec 12) : State :=
  { coderAt bi 0 (sparse [(1, 1)]) with width := 17, height := 17, mx := mx, my := my }

theorem coder4_coefs (bi : Fin 6) (mx my : BitVec 12) : acCoefs (coder4 bi mx my) = 1 :: List.replicate 62 0 := by
  have h : acCoefs (coder4 0 0 0) = 1 :: List.replicate 62 0 := by decide
  exact h

theorem coder4_items : acItems (1 :: List.replicate 62 0) 0 = [.coef 0 1, .eob] := by decide

/-- The symbol 0x01 and its amplitude bit, then EOB, with the chroma table (spec/30_encoding.md R111). -/
theorem coder4_bits : hacBits (coder4 4 1 1) = [false, true, true, false, false] := by
  have h1 : itemBits 1 (.coef 0 1) = [false, true, true] := by decide
  have h2 : itemBits 1 .eob = [false, false] := by decide
  have h3 : tabOf (coder4 4 1 1).bi = 1 := by decide
  have h4 : (1 :: List.replicate 62 0 : List Coef).map BitVec.toInt = 1 :: List.replicate 62 0 := by decide
  rw [hacBits, coder4_coefs, h4, acBits, coder4_items, h3]
  simp only [List.flatMap_cons, List.flatMap_nil, h1, h2]
  rfl

theorem witness_HacCodesTheAcCoefficients :
    BitsClean (coder4 4 1 1) ∧ ScanOk (coder4 4 1 1) ∧ (∀ v ∈ acCoefs (coder4 4 1 1), cat v.toInt ≤ 10) ∧
      Room (coder4 4 1 1) (packedBytes (coder4 4 1 1) (hacBits (coder4 4 1 1))) := by
  refine ⟨by decide, by decide, ?_, ?_⟩
  · rw [coder4_coefs]
    intro v hv
    rcases List.mem_cons.mp hv with rfl | hv
    · decide
    · rw [List.eq_of_mem_replicate hv]
      decide
  · rw [coder4_bits]
    decide

theorem witness_HacCodesTheAcCoefficients_rows :
    (coder4 4 1 1).bi.val < 5 ∧ (coder4 5 0 1).mx.toNat + 1 < mcuW (coder4 5 0 1) ∧
      ((coder4 5 1 0).mx.toNat + 1 = mcuW (coder4 5 1 0) ∧ (coder4 5 1 0).my.toNat + 1 < mcuH (coder4 5 1 0)) ∧
      ((coder4 5 1 1).mx.toNat + 1 = mcuW (coder4 5 1 1) ∧ (coder4 5 1 1).my.toNat + 1 = mcuH (coder4 5 1 1)) := by decide

theorem witness_SymbolOverflowIsRaisedExactly :
    11 < cat (dcDiff (coderAt 0 (-1) (sparse [(0, 2047)]))) ∧
      (∃ v ∈ acCoefs (coderAt 0 0 (sparse [(1, 1024)])), 10 < cat v.toInt) :=
  ⟨by decide, 1024, by decide, by decide⟩

/-- A block whose second AC coefficient has no code; the first is written before it. -/
def uncoded (s : State) : State := { s with zblk := sparse [(1, 1), (2, 1024)], bitcnt := 7 }

theorem uncoded_bits (s : State) (h : tabOf s.bi = 0) : hacBitsBefore (uncoded s) = [false, false, true] := by
  have h0 : acCoefs (uncoded State.reset) = 1 :: 1024 :: List.replicate 61 0 := by decide
  have h1 : acCoefs (uncoded s) = 1 :: 1024 :: List.replicate 61 0 := h0
  have h2 : (1 :: 1024 :: List.replicate 61 0 : List Coef).map BitVec.toInt = 1 :: 1024 :: List.replicate 61 0 := by decide
  have h3 : itemsBeforeOverflow (1 :: 1024 :: List.replicate 61 0) 0 = [.coef 0 1] := by decide
  have h4 : itemBits 0 (.coef 0 1) = [false, false, true] := by decide
  have h5 : tabOf (uncoded s).bi = 0 := h
  rw [hacBitsBefore, h1, h2, h3, h5]
  simp only [List.flatMap_cons, List.flatMap_nil, h4]
  rfl

/-- The item before the coefficient fits, and does not. -/
theorem witness_SymbolOverflowIsRaisedExactly_hac :
    BitsClean (uncoded image1) ∧ (uncoded image1).wp.toNat ≤ (uncoded image1).params.outBytes ∧
      Room (uncoded image1) (packedBytes (uncoded image1) (hacBitsBefore (uncoded image1))) ∧
      BitsClean (uncoded (full image1)) ∧ (uncoded (full image1)).wp.toNat ≤ (uncoded (full image1)).params.outBytes ∧
      ¬ Room (uncoded (full image1)) (packedBytes (uncoded (full image1)) (hacBitsBefore (uncoded (full image1)))) := by
  rw [uncoded_bits image1 (by decide), uncoded_bits (full image1) (by decide)]
  decide

theorem witness_SymbolOverflowIsRaisedExactly_full :
    BitsClean { full (busyAt .hdc) with bitcnt := 7 } ∧ (full (busyAt .hdc)).wp.toNat ≤ (full (busyAt .hdc)).params.outBytes ∧
      cat (dcDiff { full (busyAt .hdc) with bitcnt := 7 }) ≤ 11 ∧
      (∀ v ∈ acCoefs { full (busyAt .hac) with bitcnt := 7 }, cat v.toInt ≤ 10) ∧
      after (exec .hdc { full (busyAt .hdc) with bitcnt := 7 }) (fun t => t.phase == .error) = true ∧
      after (exec .hac { full (busyAt .hac) with bitcnt := 7 }) (fun t => t.phase == .error) = true := by
  refine ⟨by decide, by decide, by decide, small_coefs_of_reset, by decide, by decide⟩

/-- Seven bits pending and no room: the first bit of the block completes a byte. -/
def fullCoder : State := { full (busyAt .hdc) with bitcnt := 7 }

theorem fullCoder_hacBits : hacBits fullCoder = [true, false, true, false] := by
  have h0 : acCoefs fullCoder = List.replicate 63 0 := coefs_of_reset
  have h1 : (List.replicate 63 0 : List Coef).map BitVec.toInt = List.replicate 63 0 := by decide
  have h2 : acItems (List.replicate 63 0) 0 = [.eob] := by decide
  have h3 : itemBits 0 .eob = [true, false, true, false] := by decide
  have h4 : tabOf fullCoder.bi = 0 := by decide
  rw [hacBits, h0, h1, acBits, h2, h4]
  simp only [List.flatMap_cons, List.flatMap_nil, h3]
  rfl

theorem witness_EntropyOverflowIsAnError :
    BitsClean fullCoder ∧ fullCoder.wp.toNat ≤ fullCoder.params.outBytes ∧ cat (dcDiff fullCoder) ≤ 11 ∧
      ¬ Room fullCoder (packedBytes fullCoder (hdcBits fullCoder)) ∧ (∀ v ∈ acCoefs fullCoder, cat v.toInt ≤ 10) ∧
      ¬ Room fullCoder (packedBytes fullCoder (hacBits fullCoder)) := by
  refine ⟨by decide, by decide, by decide, by decide, small_coefs_of_reset, ?_⟩
  rw [fullCoder_hacBits]
  decide

theorem witness_MarkersAppendTheirSegments :
    segmentBytes image1 .wsoi = some [0xFF, 0xD8] ∧ Room image1 [0xFF, 0xD8] := ⟨rfl, by decide⟩

theorem witness_MarkerOverflowIsAnError :
    segmentBytes (full image1) .wsoi = some [0xFF, 0xD8] ∧ (full image1).wp.toNat ≤ (full image1).params.outBytes ∧
      ¬ Room (full image1) [0xFF, 0xD8] := ⟨rfl, by decide, by decide⟩

/-- Nothing pending, one bit pending, and seven 1 bits pending, whose byte is stuffed (vectors BW2, BW4). -/
theorem witness_FlushPadsWithOnes :
    (BitsClean image1 ∧ image1.bitcnt = 0) ∧
      (BitsClean { image1 with bitcnt := 1 } ∧ ({ image1 with bitcnt := 1 } : State).bitcnt ≠ 0 ∧ Room image1 [0x7F]) ∧
      (BitsClean { image1 with bitcnt := 7, bitacc := 127 } ∧ Room image1 [0xFF, 0x00]) ∧ (¬ Room (full image1) [0x7F] ∧ (full image1).wp.toNat ≤ (full image1).params.outBytes) := by
  decide

theorem witness_WriterStuffsEveryFf :
    BitsClean image1 ∧ (∃ t, putBits 0x1FF 9 image1 = .done t) ∧ image1.wp.toNat ≤ image1.params.outBytes :=
  ⟨by decide, ⟨_, rfl⟩, by decide⟩

/-! ### Witnesses of the invariants -/

/-- The invariant, from its parts. -/
theorem inv_of_running {s : State} {i : Instr} (h : running s = some i)
    (hm : s.pixmem.wf = true ∧ s.outmem.wf = true ∧ KeysBelow s.pixmem s.params.pixBytes ∧
      KeysBelow s.outmem s.params.outBytes ∧ s.wp.toNat ≤ s.params.outBytes ∧
      (∀ a, a < s.wp.toNat → (s.outmem.read a).isSome = true) ∧ (s.phase ≠ .error → s.err = 0 ∧ s.errInfo = 0))
    (hs : StageOk i s) : Inv s := by
  obtain ⟨h1, h2, h3, h4, h5, h6, h7⟩ := hm
  refine ⟨h1, h2, h3, h4, h5, h6, h7, fun _ => by rw [h]; rfl, fun j hj => ?_⟩
  have : j = i := by
    rw [h] at hj
    exact (Option.some.inj hj).symm
  rw [this]
  exact hs

/-- CHK comes first: it needs nothing. -/
theorem stageOk_chk (s : State) : StageOk .chk s := by
  simp [StageOk, rank, segmentBytes]

theorem inv_busyAt_chk : Inv (busyAt .chk) := inv_of_running (i := .chk) rfl (by decide) (stageOk_chk _)

theorem inv_busyAt_hac : Inv (busyAt .hac) :=
  inv_of_running (i := .hac) rfl (by decide)
    ⟨by decide, by decide, by decide, by decide, by decide, by decide, by decide, by decide⟩

theorem inv_busyAt_fin : Inv (busyAt .fin) :=
  inv_of_running (i := .fin) rfl (by decide)
    ⟨by decide, by decide, by decide, by decide, by decide, by decide, by decide, by decide⟩

theorem inv_full_wsoi : Inv (full (busyAt .wsoi)) :=
  inv_of_running (i := .wsoi) rfl (by decide)
    ⟨by decide, by decide, by decide, by decide, by decide, by decide, by decide, by decide⟩

theorem fileInv_busyAt_chk : FileInv (busyAt .chk) := by
  refine ⟨fun j hj => ?_, fun h => nomatch h⟩
  have : j = .chk := (Option.some.inj hj).symm
  subst this
  exact ⟨by decide, by decide, by decide, nofun⟩

theorem witness_SymbolOverflowIsUnreachable :
    Inv (busyAt .hac) ∧ (busyAt .hac).phase = .busy ∧ ∃ t, step (busyAt .hac) = .next t := ⟨inv_busyAt_hac, rfl, _, rfl⟩

theorem witness_StepKeepsTheInvariant : Inv (busyAt .hac) ∧ ∃ t, step (busyAt .hac) = .next t := ⟨inv_busyAt_hac, _, rfl⟩

theorem witness_StepNeverStops : Inv (busyAt .fin) := inv_busyAt_fin

theorem witness_StepKeepsTheFileInvariant :
    Inv (busyAt .chk) ∧ FileInv (busyAt .chk) ∧ ∃ t, step (busyAt .chk) = .next t :=
  ⟨inv_busyAt_chk, fileInv_busyAt_chk, _, rfl⟩

/-- The bytes of a file whose entropy-coded segment is empty: no encode makes it, but the invariants allow it. -/
def bareFile : List Byte := headerBytes image1 ++ [0xFF, 0xD9]

/-- A machine in DONE with the given OUTMEM. -/
def doneWith (m : Memory) : State := { image1 with phase := .done, wp := 625, outmem := m }

theorem doneWith_outmem (m : Memory) : (doneWith m).outmem = m := rfl

/-- The machine in DONE with the bare file. -/
def doneState : State := doneWith (Memory.writeList [] 0 bareFile)

set_option maxRecDepth 20000 in
theorem bareFile_length : bareFile.length = 625 := by decide

theorem doneState_outmem : doneState.outmem = Memory.writeList [] 0 bareFile := doneWith_outmem _

theorem doneState_read {k : Nat} (h : k < 625) : doneState.outmem.read k = bareFile[k]? := by
  have h' := Memory.read_writeList_inside [] 0 bareFile (k := k) (by rw [bareFile_length]; exact h)
  rw [Nat.zero_add] at h'
  rw [doneState_outmem]
  exact h'

set_option maxRecDepth 20000 in
theorem bareFile_ends :
    bareFile[0]? = some 0xFF ∧ bareFile[1]? = some 0xD8 ∧ bareFile[623]? = some 0xFF ∧ bareFile[624]? = some 0xD9 := by
  decide

theorem inv_doneState : Inv doneState := by
  have hwp : doneState.wp.toNat = 625 := rfl
  have hr : running doneState = none := rfl
  refine ⟨by decide, ?_, by decide, ?_, by decide, fun a ha => ?_, fun _ => ⟨rfl, rfl⟩, fun h => Phase.noConfusion h,
    fun i hi => ?_⟩
  · rw [doneState_outmem]
    exact Memory.wf_writeList rfl _ _
  · rw [doneState_outmem]
    exact Memory.keysBelow_writeList (fun c hc => absurd hc List.not_mem_nil) (by rw [bareFile_length]; decide)
  · rw [hwp] at ha
    rw [doneState_read ha, List.getElem?_eq_getElem (by rw [bareFile_length]; exact ha)]
    rfl
  · rw [hr] at hi
    cases hi

theorem fileInv_doneState : FileInv doneState := by
  have hwp : doneState.wp.toNat = 625 := rfl
  have hr : running doneState = none := rfl
  obtain ⟨h0, h1, h2, h3⟩ := bareFile_ends
  refine ⟨fun i hi => ?_, fun _ => ⟨?_, ?_, ?_, fun a h1 h2 => ?_, ?_, ?_⟩⟩
  · rw [hr] at hi
    cases hi
  · exact Nat.le_of_eq hwp.symm
  · rw [outByte, doneState_read (by decide), h0]
    rfl
  · rw [outByte, doneState_read (by decide), h1]
    rfl
  · rw [hwp] at h1
    omega
  · rw [hwp, outByte, doneState_read (by decide), h2]
    rfl
  · rw [hwp, outByte, doneState_read (by decide), h3]
    rfl

theorem witness_DoneFileIsWellFormed : Inv doneState ∧ FileInv doneState ∧ doneState.phase = .done :=
  ⟨inv_doneState, fileInv_doneState, rfl⟩

/-- A step that leaves the machine BUSY, one that goes on after a block, and the last one. -/
theorem witness_SequencerFollowsTheFixedProgram :
    (Inv (busyAt .chk) ∧ CoreMoves (busyAt .chk) ∧ running (busyAt .chk) = some .chk ∧
      after (step (busyAt .chk)) (fun t => t.phase == .busy) = true) ∧
    (Inv (busyAt .hac) ∧ CoreMoves (busyAt .hac) ∧ running (busyAt .hac) = some .hac ∧
      after (step (busyAt .hac)) (fun t => t.phase == .busy) = true) ∧
    (Inv (busyAt .fin) ∧ CoreMoves (busyAt .fin) ∧ running (busyAt .fin) = some .fin ∧
      after (step (busyAt .fin)) (fun t => t.phase == .done) = true) :=
  ⟨⟨inv_busyAt_chk, .inl rfl, rfl, by decide⟩, ⟨inv_busyAt_hac, .inl rfl, rfl, by decide⟩, inv_busyAt_fin, .inl rfl, rfl,
    by decide⟩

/-- The three outcomes: FIN, an error, and progress. -/
theorem witness_EveryCoreStepMakesProgress :
    (Inv (busyAt .fin) ∧ CoreMoves (busyAt .fin) ∧ running (busyAt .fin) = some .fin) ∧
    (Inv (full (busyAt .wsoi)) ∧ CoreMoves (full (busyAt .wsoi)) ∧ running (full (busyAt .wsoi)) = some .wsoi) ∧
    (Inv (busyAt .chk) ∧ CoreMoves (busyAt .chk) ∧ running (busyAt .chk) = some .chk) :=
  ⟨⟨inv_busyAt_fin, .inl rfl, rfl⟩, ⟨inv_full_wsoi, .inl rfl, rfl⟩, inv_busyAt_chk, .inl rfl, rfl⟩

/-- A host access before the next micro-operation. -/
theorem witness_EveryCoreStepMakesProgress_host :
    HostMoves (hostDoes (busyAt .chk) (.pixWrite 0 0)) ∧ running (hostDoes (busyAt .chk) (.pixWrite 0 0)) = some .chk :=
  ⟨by decide, rfl⟩

theorem witness_EveryEncodeEnds :
    Inv (busyAt .chk) ∧ (busyAt .chk).sched = [] ∧ running (busyAt .chk) = some .chk := ⟨inv_busyAt_chk, rfl, rfl⟩

/-- The same machine after another encode: other tables, other blocks, another alpha byte. -/
def busyAgain : State :=
  { busyAt .chk with
    qt := quantTables 3, wp := 0, bitcnt := 5, bitacc := 9, zblk := sparse [(3, 4)]
    pixmem := [(0, 0x12), (1, 0x34), (2, 0x56), (3, 0x00)] }

theorem inv_busyAgain : Inv busyAgain := inv_of_running (i := .chk) rfl (by decide) (stageOk_chk _)

theorem sameInputs_busyAgain : SameInputs (busyAt .chk) busyAgain := by
  refine ⟨rfl, rfl, rfl, rfl, rfl, fun a _ ha => ?_⟩
  have h3 : ¬ 3 = a := fun e => ha (by omega)
  simp only [pixByte, busyAgain, busyAt, image1, Memory.read, h3, if_false]

theorem sameEncode_busyAgain : SameEncode (busyAt .chk) busyAgain := by
  refine ⟨sameInputs_busyAgain, rfl, rfl, rfl, rfl, fun j hj => ?_⟩
  have : j = .chk := (Option.some.inj hj).symm
  subst this
  exact ⟨fun h => absurd h (by decide), fun h => absurd h (by decide), fun h => absurd h (by decide), nofun, nofun, nofun, by
    decide⟩

theorem witness_SameEncodesStaySame :
    Inv (busyAt .chk) ∧ Inv busyAgain ∧ (busyAt .chk).phase = .busy ∧ busyAgain.phase = .busy ∧
      SameEncode (busyAt .chk) busyAgain ∧ CoreMoves (busyAt .chk) ∧ CoreMoves busyAgain :=
  ⟨inv_busyAt_chk, inv_busyAgain, rfl, rfl, sameEncode_busyAgain, .inl rfl, .inl rfl⟩

/-- A refused START is pending in the first machine, a write to PIXMEM in the second. -/
theorem witness_SameEncodesStaySame_host :
    (SameEncode (hostDoes (busyAt .chk) (.regWrite 0x00 1)) busyAgain ∧
      HostMoves (hostDoes (busyAt .chk) (.regWrite 0x00 1))) ∧
    (SameEncode (busyAt .chk) (hostDoes busyAgain (.pixWrite 0 0)) ∧ HostMoves (hostDoes busyAgain (.pixWrite 0 0))) :=
  ⟨⟨sameEncode_busyAgain, by decide⟩, sameEncode_busyAgain, by decide⟩

theorem witness_ResultDependsOnInputsOnly :
    Inv (busyAt .chk) ∧ Inv busyAgain ∧ SameInputs (busyAt .chk) busyAgain ∧ running (busyAt .chk) = some .chk ∧
      running busyAgain = some .chk ∧ (busyAt .chk).sched = [] ∧ busyAgain.sched = [] :=
  ⟨inv_busyAt_chk, inv_busyAgain, sameInputs_busyAgain, rfl, rfl, rfl, rfl⟩

/-- Two encodes of an empty image that fail in CHK, the second after a write that is discarded. -/
def failing (s : State) (es : List Event) : State := { s with width := 0, sched := es }

theorem endsIn_failing : ∃ s', EndsIn 1 (failing (busyAt .chk) []) s' := by
  refine ⟨_, rfl, Phase.noConfusion, fun k u hk hu => ?_⟩
  obtain rfl : k = 0 := by omega
  cases hu
  rfl

theorem endsIn_failing_after_access : ∃ t', EndsIn 2 (failing busyAgain [.pixWrite 0 0]) t' := by
  refine ⟨_, rfl, Phase.noConfusion, fun k u hk hu => ?_⟩
  obtain rfl | rfl : k = 0 ∨ k = 1 := by omega
  · cases hu
    rfl
  · cases hu
    rfl

theorem witness_ResultDependsOnInputsOnly_interleaved :
    (Inv (failing (busyAt .chk) []) ∧ Inv (failing busyAgain [.pixWrite 0 0]) ∧
      SameInputs (failing (busyAt .chk) []) (failing busyAgain [.pixWrite 0 0]) ∧
      running (failing (busyAt .chk) []) = some .chk ∧ running (failing busyAgain [.pixWrite 0 0]) = some .chk) ∧
    (.reset ∉ (failing (busyAt .chk) []).sched ∧ .reset ∉ (failing busyAgain [.pixWrite 0 0]).sched) ∧
    (∃ s', EndsIn 1 (failing (busyAt .chk) []) s') ∧ ∃ t', EndsIn 2 (failing busyAgain [.pixWrite 0 0]) t' := by
  refine ⟨⟨inv_of_running (i := .chk) rfl (by decide) (stageOk_chk _),
    inv_of_running (i := .chk) rfl (by decide) (stageOk_chk _), ⟨rfl, rfl, rfl, rfl, rfl, fun a ha => ?_⟩, rfl, rfl⟩,
    by decide, endsIn_failing, endsIn_failing_after_access⟩
  have : bytesNeeded (failing (busyAt .chk) []) = 0 := rfl
  omega

/-- Program P3: a buffer one pixel short; and an empty image. -/
theorem witness_BoundaryRejectsInvalidArguments :
    State.reset.phase ≠ .busy ∧ ([1, 2, 3, 4, 5, 6, 7, 8, 9, 10, 11, 12] : List Byte).length ≠ 2 * 2 * 4 := by decide

end Sys2Proof.Machine.Tests
end

section
/-! The state at power-on, and why the invariants hold there: what a state that is neither BUSY nor DONE owes them. -/

namespace Sys2Proof.Machine

/-! ### The fields of the power-on state (spec/10_state.md R45) -/

section
variable (p : Params)
@[simp] theorem resetWith_phase : (State.resetWith p).phase = .idle := rfl
@[simp] theorem resetWith_badcmd : (State.resetWith p).badcmd = false := rfl
@[simp] theorem resetWith_width : (State.resetWith p).width = 0 := rfl
@[simp] theorem resetWith_height : (State.resetWith p).height = 0 := rfl
@[simp] theorem resetWith_quality : (State.resetWith p).quality = 70 := rfl
@[simp] theorem resetWith_pixLen : (State.resetWith p).pixLen = 0 := rfl
@[simp] theorem resetWith_err : (State.resetWith p).err = 0 := rfl
@[simp] theorem resetWith_errInfo : (State.resetWith p).errInfo = 0 := rfl
@[simp] theorem resetWith_uop : (State.resetWith p).uop = 0 := rfl
@[simp] theorem resetWith_mx : (State.resetWith p).mx = 0 := rfl
@[simp] theorem resetWith_my : (State.resetWith p).my = 0 := rfl
@[simp] theorem resetWith_bi : (State.resetWith p).bi = 0 := rfl
@[simp] theorem resetWith_pred : (State.resetWith p).pred = Vector.replicate 3 0 := rfl
@[simp] theorem resetWith_bitacc : (State.resetWith p).bitacc = 0 := rfl
@[simp] theorem resetWith_bitcnt : (State.resetWith p).bitcnt = 0 := rfl
@[simp] theorem resetWith_wp : (State.resetWith p).wp = 0 := rfl
@[simp] theorem resetWith_pixmem : (State.resetWith p).pixmem = [] := rfl
@[simp] theorem resetWith_outmem : (State.resetWith p).outmem = [] := rfl
end

theorem reset_eq_resetWith : State.reset = State.resetWith Params.default := rfl

@[simp] theorem Memory.wf_nil : Memory.wf [] = true := rfl

/-! ### States that are neither BUSY nor DONE -/

/-- Outside BUSY no micro-operation is next (spec/40_driver.md R133). -/
theorem running_of_phase_ne_busy {s : State} (h : s.phase ≠ .busy) : running s = none := if_neg h

/-- Outside DONE the host reads OUT_LEN as 0 (spec/10_state.md R28). -/
theorem outLen_of_phase_ne_done {s : State} (h : s.phase ≠ .done) : outLen s = 0 := if_neg h

/-- Outside BUSY the invariant asks only for its clauses about the memories, WP and the error record. -/
theorem inv_of_phase_ne_busy {s : State} (h : s.phase ≠ .busy) (hpix : s.pixmem.wf = true) (hout : s.outmem.wf = true)
    (hpixKeys : KeysBelow s.pixmem s.params.pixBytes) (houtKeys : KeysBelow s.outmem s.params.outBytes)
    (hwp : s.wp.toNat ≤ s.params.outBytes) (hwritten : ∀ a, a < s.wp.toNat → (s.outmem.read a).isSome = true)
    (herr : s.phase ≠ .error → s.err = 0 ∧ s.errInfo = 0) : Inv s := by
  have hstage : ∀ i ∈ running s, StageOk i s := by simp [running_of_phase_ne_busy h]
  exact ⟨hpix, hout, hpixKeys, houtKeys, hwp, hwritten, herr, fun hbusy => absurd hbusy h, hstage⟩

/-- Outside BUSY and DONE the invariant of the file asks for nothing. -/
theorem fileInv_of_phase_ne_busy_of_ne_done {s : State} (hbusy : s.phase ≠ .busy) (hdone : s.phase ≠ .done) :
    FileInv s := by
  refine ⟨?_, fun h => absurd h hdone⟩
  simp [running_of_phase_ne_busy hbusy]

/-! ### Power-on -/

/-- At power-on the memories are empty and WP is 0, so there is nothing below WP to have been written. -/
theorem inv_resetWith (p : Params) : Inv (State.resetWith p) := by
  have hidle : (State.resetWith p).phase ≠ .busy := by simp
  have hkeys (n : Nat) : KeysBelow [] n := List.forall_mem_nil _
  have hwritten : ∀ a, a < (State.resetWith p).wp.toNat → ((State.resetWith p).outmem.read a).isSome = true := by simp
  exact inv_of_phase_ne_busy hidle Memory.wf_nil Memory.wf_nil (hkeys _) (hkeys _) (by simp) hwritten (by simp)

theorem fileInv_resetWith (p : Params) : FileInv (State.resetWith p) :=
  fileInv_of_phase_ne_busy_of_ne_done (by simp) (by simp)

/-- Settles O7: each value is the field's of `State.resetWith`, and OUT_LEN is 0 because STATE is not DONE. -/
theorem powerOnStateHasResetValues : Obligations.PowerOnStateHasResetValues := by
  unfold Obligations.PowerOnStateHasResetValues
  rw [reset_eq_resetWith]
  have hlen : outLen (State.resetWith Params.default) = 0 := outLen_of_phase_ne_done (by simp)
  simp [hlen]

/-- Settles O50: the power-on state is IDLE with empty memories, whatever the capacities. -/
theorem invariantsHoldAtReset : Obligations.InvariantsHoldAtReset := fun p =>
  ⟨inv_resetWith p, fileInv_resetWith p⟩

end Sys2Proof.Machine
end

section
/-! What a step does for each pending event, what an instruction can come to, and what each of them leaves unchanged:
the statements about the host's accesses, about the inputs while BUSY and about the stops. -/

namespace Sys2Proof.Machine

/-! ### The pending event (spec/20_memory.md R61, R70) -/

theorem nextAction_of_pending {s : State} {e : Event} {rest : List Event} (h : s.sched = e :: rest) :
    nextAction s = eventAction e { s with sched := rest } := by
  simp only [nextAction, h]

theorem coreState_of_idle {s : State} (h : s.sched = []) : coreState s = s := by
  obtain ⟨⟩ := s
  subst h
  rfl

theorem nextAction_of_coreMoves {s : State} (h : CoreMoves s) : nextAction s = coreAction (coreState s) := by
  cases hs : s.sched with
  | nil => simp only [nextAction, hs, coreState_of_idle hs]
  | cons e rest =>
    have he : e = .core := by simpa [CoreMoves, hs] using h
    rw [nextAction_of_pending hs, he, coreState, hs]
    rfl

/-- A register write outside CMD, as a step. -/
theorem step_regWrite {s : State} {rest : List Event} {off : BitVec 12} {v : Word}
    (h : s.sched = .regWrite off v :: rest) (hoff : off ≠ 0x00) :
    step s = .next (hostRegWrite off v { s with sched := rest }) :=
  step_settle ((nextAction_of_pending h).trans (if_neg hoff))

theorem step_regRead {s : State} {rest : List Event} {off : BitVec 12} (h : s.sched = .regRead off :: rest) :
    step s = .next (returnToHost (.word (regValue s off)) { s with sched := rest }) :=
  step_settle (nextAction_of_pending h)

theorem step_pixWrite {s : State} {rest : List Event} {a : Nat} {b : Byte} (h : s.sched = .pixWrite a b :: rest) :
    step s = .next (hostPixWrite a b { s with sched := rest }) :=
  step_settle (nextAction_of_pending h)

theorem step_pixRead {s : State} {rest : List Event} {a : Nat} (h : s.sched = .pixRead a :: rest) :
    step s = .next (returnToHost (.byte (pixReadValue s a)) { s with sched := rest }) :=
  step_settle (nextAction_of_pending h)

theorem step_outRead {s : State} {rest : List Event} {a : Nat} (h : s.sched = .outRead a :: rest) :
    step s = .next (returnToHost (.byte (outReadValue s a)) { s with sched := rest }) :=
  step_settle (nextAction_of_pending h)

/-! ### The host's writes (spec/20_memory.md R66) -/

theorem hostMayWrite_iff (s : State) : hostMayWrite s = true ↔ s.phase ≠ .busy := bne_iff_ne

theorem hostRegWrite_of_busy {s : State} (h : s.phase = .busy) (off : BitVec 12) (v : Word) :
    hostRegWrite off v s = s :=
  if_neg fun hw => (hostMayWrite_iff s).mp hw h

theorem hostRegWrite_of_not_busy {s : State} (h : s.phase ≠ .busy) (off : BitVec 12) (v : Word) :
    hostRegWrite off v s = writeConfig s off v :=
  if_pos ((hostMayWrite_iff s).mpr h)

theorem hostPixWrite_of_writable {s : State} {a : Nat} (h : s.phase ≠ .busy) (ha : a < s.params.pixBytes) (b : Byte) :
    hostPixWrite a b s = { s with pixmem := s.pixmem.write a b } := by
  simp [hostPixWrite, (hostMayWrite_iff s).mpr h, ha]

theorem hostPixWrite_of_ignored {s : State} {a : Nat} (h : s.phase = .busy ∨ s.params.pixBytes ≤ a) (b : Byte) :
    hostPixWrite a b s = s := by
  refine if_neg fun hw => ?_
  rw [Bool.and_eq_true, hostMayWrite_iff, decide_eq_true_eq] at hw
  obtain ⟨hbusy, hin⟩ := hw
  exact h.elim hbusy (Nat.not_le.mpr hin)

/-- While BUSY a register write outside CMD is taken and does nothing. -/
theorem step_regWrite_of_busy {s : State} {rest : List Event} {off : BitVec 12} {v : Word}
    (h : s.sched = .regWrite off v :: rest) (hoff : off ≠ 0x00) (hbusy : s.phase = .busy) :
    step s = .next { s with sched := rest } := by
  rw [step_regWrite h hoff, hostRegWrite_of_busy (s := { s with sched := rest }) hbusy]

theorem step_regWrite_of_not_busy {s : State} {rest : List Event} {off : BitVec 12} {v : Word}
    (h : s.sched = .regWrite off v :: rest) (hoff : off ≠ 0x00) (hbusy : s.phase ≠ .busy) :
    step s = .next (writeConfig { s with sched := rest } off v) := by
  rw [step_regWrite h hoff, hostRegWrite_of_not_busy (s := { s with sched := rest }) hbusy]

/-- While BUSY, and outside PIXMEM, a pixel write is taken and does nothing. -/
theorem step_pixWrite_of_ignored {s : State} {rest : List Event} {a : Nat} {b : Byte}
    (h : s.sched = .pixWrite a b :: rest) (hignored : s.phase = .busy ∨ s.params.pixBytes ≤ a) :
    step s = .next { s with sched := rest } := by
  rw [step_pixWrite h, hostPixWrite_of_ignored (s := { s with sched := rest }) hignored]

/-- A write to an offset of no writable register does nothing. -/
theorem writeConfig_of_unmapped (s : State) {off : BitVec 12} (hw : off ≠ 0x08) (hh : off ≠ 0x0C) (hq : off ≠ 0x10)
    (hp : off ≠ 0x14) (v : Word) : writeConfig s off v = s :=
  (if_neg hw).trans ((if_neg hh).trans ((if_neg hq).trans (if_neg hp)))

theorem pixByte_write_same (s : State) (a : Nat) (b : Byte) :
    pixByte { s with pixmem := s.pixmem.write a b } a = b := by
  simp [pixByte]

theorem pixByte_write_other (s : State) {a x : Nat} (b : Byte) (h : x ≠ a) :
    pixByte { s with pixmem := s.pixmem.write a b } x = pixByte s x := by
  simp only [pixByte, Memory.read_write_other _ _ h]

/-! ### The registers that the host reads (spec/10_state.md R21 to R31) -/

theorem regOffset_aligned (r : HostReg) : offsetAligned (regOffset r) = true := by
  cases r <;> decide

theorem regOffset_toNat_le (r : HostReg) : (regOffset r).toNat ≤ 0x20 := by
  cases r <;> decide

theorem regOffset_ne_zero {r : HostReg} (h : r ≠ .cmd) : regOffset r ≠ 0x00 := by
  revert h
  cases r <;> decide

/-- Away from the registers after CMD every offset reads 0. -/
theorem regValue_of_unmapped (s : State) {off : BitVec 12} (h : ∀ r, r ≠ .cmd → off ≠ regOffset r) :
    regValue s off = 0 := by
  simp [regValue, h]

/-- STATUS bit by bit (spec/10_state.md R23). -/
theorem statusWord_getLsbD (s : State) (i : Nat) :
    (statusWord s).getLsbD i =
      if i < 2 then (phaseBits s.phase).getLsbD i
      else if i = 2 then s.badcmd
      else if 8 ≤ i then (statusUop s).getLsbD (i - 8)
      else false := by
  simp only [statusWord, BitVec.getLsbD_append, BitVec.getLsbD_ofBool]
  grind

theorem statusWord_phase (s : State) : (statusWord s).extractLsb' 0 2 = phaseBits s.phase := by
  apply BitVec.eq_of_getLsbD_eq
  intro i hi
  simp only [BitVec.getLsbD_extractLsb', statusWord_getLsbD, hi, Nat.zero_add, if_true, decide_true, Bool.true_and]

theorem statusWord_badcmd (s : State) : (statusWord s).getLsbD 2 = s.badcmd := by
  rw [statusWord_getLsbD, if_neg (by decide), if_pos rfl]

theorem statusWord_gap (s : State) : (statusWord s).extractLsb' 3 5 = 0 := by
  apply BitVec.eq_of_getLsbD_eq
  intro i hi
  rw [BitVec.getLsbD_extractLsb', statusWord_getLsbD, if_neg (by omega), if_neg (by omega), if_neg (by omega)]
  simp

theorem statusWord_uop (s : State) : (statusWord s).extractLsb' 8 8 = statusUop s := by
  apply BitVec.eq_of_getLsbD_eq
  intro i hi
  rw [BitVec.getLsbD_extractLsb', statusWord_getLsbD, if_neg (by omega), if_neg (by omega), if_pos (by omega),
    Nat.add_sub_cancel_left, decide_eq_true hi, Bool.true_and]

theorem statusWord_top (s : State) : (statusWord s).extractLsb' 16 16 = 0 := by
  apply BitVec.eq_of_getLsbD_eq
  intro i hi
  rw [BitVec.getLsbD_extractLsb', statusWord_getLsbD, if_neg (by omega), if_neg (by omega), if_pos (by omega),
    BitVec.getLsbD_of_ge _ _ (by omega)]
  simp

/-! ### PixFetch (spec/20_memory.md R68) -/

/-- The clamped pixel is one of the `W * H` pixels of an image that is not empty. -/
theorem pixAddr_add_four_le {s : State} (hw : s.width ≠ 0) (hh : s.height ≠ 0) (x y : Nat) :
    pixAddr s x y + 4 ≤ bytesNeeded s := by
  have hW : s.width.toNat ≠ 0 := fun h => hw (BitVec.eq_of_toNat_eq h)
  have hH : s.height.toNat ≠ 0 := fun h => hh (BitVec.eq_of_toNat_eq h)
  have hrow : min y (s.height.toNat - 1) * s.width.toNat ≤ (s.height.toNat - 1) * s.width.toNat :=
    Nat.mul_le_mul_right _ (Nat.min_le_right _ _)
  have hlast : (s.height.toNat - 1) * s.width.toNat + s.width.toNat = s.width.toNat * s.height.toNat := by
    rw [← Nat.succ_mul, Nat.succ_eq_add_one, Nat.sub_add_cancel (Nat.pos_of_ne_zero hH), Nat.mul_comm]
  simp only [pixAddr, bytesNeeded]
  omega

/-! ### OutRead (spec/20_memory.md R67) -/

theorem outReadValue_of_below {s : State} {a : Nat} (hdone : s.phase = .done) (ha : a < s.wp.toNat)
    (hout : a < s.params.outBytes) : outReadValue s a = outByte s a :=
  if_pos ⟨by rwa [outLen, if_pos hdone], hout⟩

theorem outReadValue_of_gated {s : State} {a : Nat} (h : s.phase ≠ .done ∨ s.wp.toNat ≤ a) : outReadValue s a = 0x00 := by
  refine if_neg fun hlen => ?_
  by_cases hdone : s.phase = .done
  · rw [outLen, if_pos hdone] at hlen
    exact h.elim (absurd hdone) fun hwp => absurd hlen.1 (Nat.not_lt.mpr hwp)
  · rw [outLen_of_phase_ne_done hdone] at hlen
    exact absurd hlen.1 (Nat.not_lt_zero a)

/-! ### What the bitstream writer changes (spec/47_bitstream.md section 1) -/

/-- The state in which an attempt ends, whether it completed or raised: the writes made before the `raise` stand. -/
def Attempt.endState : Attempt → State
  | .done s => s
  | .raised _ _ s => s

@[simp] theorem endState_done (s : State) : (Attempt.done s).endState = s := rfl

@[simp] theorem endState_raised (c : ErrorCode) (e : BitVec 4) (s : State) : (Attempt.raised c e s).endState = s := rfl

/-- `t` differs from `s` in OUTMEM, WP, BITACC and BITCNT at most. -/
def WriterFrame (s t : State) : Prop :=
  t = { s with outmem := t.outmem, wp := t.wp, bitacc := t.bitacc, bitcnt := t.bitcnt }

theorem WriterFrame.refl (s : State) : WriterFrame s s := rfl

theorem WriterFrame.trans {s t u : State} (hst : WriterFrame s t) (htu : WriterFrame t u) : WriterFrame s u := by
  unfold WriterFrame at *
  rw [htu, hst]

theorem writerFrame_setBits (s : State) (acc : Byte) (cnt : Fin 8) : WriterFrame s (s.setBits acc cnt) := rfl

theorem writerFrame_appendByte (s : State) (b : Byte) : WriterFrame s (s.appendByte b) := rfl

theorem writerFrame_andThen {s : State} {r : Attempt} {f : State → Attempt} (hr : WriterFrame s r.endState)
    (hf : ∀ t, WriterFrame t (f t).endState) : WriterFrame s (r.andThen f).endState := by
  cases r with
  | done t => exact hr.trans (hf t)
  | raised c e t => exact hr

theorem writerFrame_emitByte (b : Byte) (s : State) : WriterFrame s (emitByte b s).endState := by
  unfold emitByte
  split
  · exact .refl s
  · exact writerFrame_appendByte s b

theorem writerFrame_emitBytes (bs : List Byte) (s : State) : WriterFrame s (emitBytes bs s).endState := by
  induction bs generalizing s with
  | nil => exact .refl s
  | cons b bs ih => exact writerFrame_andThen (writerFrame_emitByte b s) ih

theorem writerFrame_emitStuffed (b : Byte) (s : State) : WriterFrame s (emitStuffed b s).endState := by
  refine writerFrame_andThen (writerFrame_andThen (writerFrame_emitByte b s) fun t => ?_)
    fun t => writerFrame_setBits t 0 0
  split
  · exact writerFrame_emitByte 0x00 t
  · exact .refl t

theorem writerFrame_putBit (bit : Bool) (s : State) : WriterFrame s (putBit bit s).endState := by
  unfold putBit
  split
  · exact (writerFrame_setBits s _ 0).trans (writerFrame_emitStuffed _ _)
  · exact writerFrame_setBits s _ _

theorem writerFrame_putBits (v n : Nat) (s : State) : WriterFrame s (putBits v n s).endState := by
  induction n generalizing s with
  | zero => exact .refl s
  | succ n ih => exact writerFrame_andThen (writerFrame_putBit _ s) ih

theorem writerFrame_padBits (s : State) : WriterFrame s (padBits s).endState := by
  unfold padBits
  split
  · exact writerFrame_putBits _ _ s
  · exact .refl s

theorem writerFrame_putHuff (t : Fin 2) (cls : HuffClass) (sym : Nat) (s : State) :
    WriterFrame s (putHuff t cls sym s).endState := by
  unfold putHuff
  split
  · exact writerFrame_putBits _ _ s
  · exact .refl s

theorem writerFrame_putZrls (t : Fin 2) (n : Nat) (s : State) : WriterFrame s (putZrls t n s).endState := by
  induction n generalizing s with
  | zero => exact .refl s
  | succ n ih => exact writerFrame_andThen (writerFrame_putHuff t .ac 0xF0 s) ih

theorem writerFrame_putCoef (t : Fin 2) (r : Nat) (v : Int) (s : State) :
    WriterFrame s (putCoef t r v s).endState := by
  refine writerFrame_andThen (writerFrame_putZrls t _ s) fun s1 => ?_
  split
  · exact .refl s1
  · exact writerFrame_andThen (writerFrame_putHuff t .ac _ s1) fun s2 => writerFrame_putBits _ _ s2

theorem writerFrame_codeAc (t : Fin 2) (vs : List Coef) (r : Nat) (s : State) :
    WriterFrame s (codeAc t vs r s).endState := by
  induction vs generalizing r s with
  | nil =>
    unfold codeAc
    split
    · exact writerFrame_putHuff t .ac 0x00 s
    · exact .refl s
  | cons v vs ih =>
    unfold codeAc
    split
    · exact ih (r + 1) s
    · exact writerFrame_andThen (writerFrame_putCoef t r _ s) fun s' => ih 0 s'

/-! ### The inputs of an encode (spec/20_memory.md R66) -/

/-- The capacities, W, H, Q, PIX_LEN and PIXMEM are the same. -/
structure KeepsInputs (s t : State) : Prop where
  params : t.params = s.params
  width : t.width = s.width
  height : t.height = s.height
  quality : t.quality = s.quality
  pixLen : t.pixLen = s.pixLen
  pixmem : t.pixmem = s.pixmem

theorem KeepsInputs.refl (s : State) : KeepsInputs s s := ⟨rfl, rfl, rfl, rfl, rfl, rfl⟩

theorem KeepsInputs.trans {s t u : State} (hst : KeepsInputs s t) (htu : KeepsInputs t u) : KeepsInputs s u where
  params := htu.params.trans hst.params
  width := htu.width.trans hst.width
  height := htu.height.trans hst.height
  quality := htu.quality.trans hst.quality
  pixLen := htu.pixLen.trans hst.pixLen
  pixmem := htu.pixmem.trans hst.pixmem

theorem WriterFrame.keepsInputs {s t : State} (h : WriterFrame s t) : KeepsInputs s t := by
  rw [show t = _ from h]
  exact ⟨rfl, rfl, rfl, rfl, rfl, rfl⟩

/-- HDC writes to the bitstream, and then its predictor. -/
theorem codeDc_keepsInputs (s : State) : KeepsInputs s (codeDc s).endState := by
  unfold codeDc
  dsimp only
  split
  · exact .refl s
  · have hwrite : WriterFrame s
        ((putHuff (tabOf s.bi) .dc (cat (dcDiff s)) s).andThen (putAmp (dcDiff s) (cat (dcDiff s)))).endState :=
      writerFrame_andThen (writerFrame_putHuff _ _ _ s) fun t => writerFrame_putBits _ _ t
    revert hwrite
    cases (putHuff (tabOf s.bi) .dc (cat (dcDiff s)) s).andThen (putAmp (dcDiff s) (cat (dcDiff s))) with
    | done t => exact fun hwrite => hwrite.keepsInputs.trans ⟨rfl, rfl, rfl, rfl, rfl, rfl⟩
    | raised c e t => exact WriterFrame.keepsInputs

theorem checkArguments_endState (s : State) : (checkArguments s).endState = s := by
  unfold checkArguments
  split
  · rfl
  split
  · rfl
  split
  · rfl
  split <;> rfl

/-! ### Instructions as a body and the end of a micro-operation (spec/40_driver.md R133) -/

/-- What an instruction does before SEQ advances; a host command does all of its work there. -/
def instrBody (s : State) : Instr → Attempt
  | .nop => .done s
  | .start => .done (if s.phase = .busy then refuseCommand s else acceptStart s)
  | .chk => checkArguments s
  | .init => .done (initEncode s)
  | .qtgen => .done { s with qt := quantTables s.quality }
  | .wsoi => emitBytes soiBytes s
  | .wapp0 => emitBytes app0Bytes s
  | .wdqt0 => emitBytes (dqtBytes 0 s.qt[0].toList) s
  | .wdqt1 => emitBytes (dqtBytes 1 s.qt[1].toList) s
  | .wsof0 => emitBytes (sof0Bytes s.width s.height) s
  | .wdht0 => emitBytes (dhtBytes .dc 0) s
  | .wdht1 => emitBytes (dhtBytes .ac 0) s
  | .wdht2 => emitBytes (dhtBytes .dc 1) s
  | .wdht3 => emitBytes (dhtBytes .ac 1) s
  | .wsos => emitBytes sosBytes s
  | .weoi => emitBytes eoiBytes s
  | .csc => .done { s with mcu := convertMcu s }
  | .blkld => .done { s with sblk := loadBlock s.mcu s.bi }
  | .fdct => .done { s with fblk := forwardDct s.sblk }
  | .quant => .done { s with qblk := quantBlock s }
  | .zz => .done { s with zblk := zigzagOrder s.qblk }
  | .hdc => codeDc s
  | .hac => codeAc (tabOf s.bi) (acCoefs s) 0 s
  | .flush => padBits s
  | .fin => .done (commit s)

/-- Every instruction but CSC is its body and the end of a micro-operation. -/
theorem exec_eq_finish {i : Instr} (h : i ≠ .csc) (s : State) : exec i s = finish i (instrBody s i) := by
  cases i with
  | csc => exact absurd rfl h
  | start =>
    change execStart s = .next (if s.phase = .busy then refuseCommand s else acceptStart s)
    unfold execStart
    split <;> rfl
  | _ => rfl

theorem exec_csc_of_inside {s : State} (h : ¬ FetchOutside s) : exec .csc s = finish .csc (instrBody s .csc) :=
  if_pos ((mcuFetchInside_iff s).mpr h)

theorem exec_csc_of_outside {s : State} (h : FetchOutside s) : exec .csc s = .fault .pixFetchOutside :=
  if_neg fun hin => (mcuFetchInside_iff s).mp hin h

/-- What a next state of an instruction comes from. -/
theorem finish_of_exec_next {i : Instr} {s t : State} (h : exec i s = .next t) : finish i (instrBody s i) = .next t := by
  by_cases hi : i = .csc
  · subst hi
    by_cases hout : FetchOutside s
    · rw [exec_csc_of_outside hout] at h
      cases h
    · rwa [exec_csc_of_inside hout] at h
  · rwa [exec_eq_finish hi] at h

theorem instrBody_keepsInputs (s : State) (i : Instr) : KeepsInputs s (instrBody s i).endState := by
  cases i with
  | nop | init | qtgen | csc | blkld | fdct | quant | zz | fin =>
    rw [instrBody, endState_done]
    exact ⟨rfl, rfl, rfl, rfl, rfl, rfl⟩
  | start =>
    simp only [instrBody, endState_done]
    split <;> exact ⟨rfl, rfl, rfl, rfl, rfl, rfl⟩
  | chk => rw [instrBody, checkArguments_endState]; exact .refl s
  | wsoi | wapp0 | wdqt0 | wdqt1 | wsof0 | wdht0 | wdht1 | wdht2 | wdht3 | wsos | weoi =>
    simp only [instrBody]
    exact (writerFrame_emitBytes _ s).keepsInputs
  | hdc => exact codeDc_keepsInputs s
  | hac => exact (writerFrame_codeAc _ _ 0 s).keepsInputs
  | flush => exact (writerFrame_padBits s).keepsInputs

/-- The advance writes SEQ and nothing else (spec/40_driver.md R134). -/
theorem advance_frame {i : Instr} {s t : State} (h : advance i s = .next t) :
    t = { s with uop := t.uop, mx := t.mx, my := t.my, bi := t.bi } := by
  cases i with
  | hac =>
    simp only [advance, advanceHac] at h
    split at h
    · cases h; rfl
    split at h
    · cases h; rfl
    split at h
    · cases h; rfl
    split at h
    · cases h; rfl
    · cases h
  | _ => cases h; rfl

theorem finish_keepsInputs {i : Instr} {r : Attempt} {t : State} (h : finish i r = .next t) :
    KeepsInputs r.endState t := by
  cases r with
  | done s =>
    rw [endState_done, advance_frame h]
    exact ⟨rfl, rfl, rfl, rfl, rfl, rfl⟩
  | raised c e s => cases h; exact ⟨rfl, rfl, rfl, rfl, rfl, rfl⟩

theorem exec_keepsInputs {i : Instr} {s t : State} (h : exec i s = .next t) : KeepsInputs s t :=
  (instrBody_keepsInputs s i).trans (finish_keepsInputs (finish_of_exec_next h))

/-! ### The step by who moves (spec/40_driver.md R133) -/

theorem running_eq_some_iff {s : State} {i : Instr} :
    running s = some i ↔ s.phase = .busy ∧ decodeUop s.uop = .ok i := by
  unfold running
  cases decodeUop s.uop <;> simp

theorem running_eq_none_of_error {s : State} {e : DecodeReject} (h : decodeUop s.uop = .error e) :
    running s = none := by
  simp [running, h]

theorem step_of_running {s : State} {i : Instr} (hcore : CoreMoves s) (hi : running s = some i) :
    step s = exec i (coreState s) := by
  obtain ⟨hbusy, hdecode⟩ := running_eq_some_iff.mp hi
  exact step_run ((nextAction_of_coreMoves hcore).trans (coreAction_of_busy (s := coreState s) hbusy hdecode))

theorem step_of_unused {s : State} (hcore : CoreMoves s) (hbusy : s.phase = .busy) (hnone : running s = none) :
    step s = .refused .unusedMicroOp := by
  have haction : coreAction (coreState s) = .refuse .unusedMicroOp := by
    cases hd : decodeUop s.uop with
    | ok i => exact absurd (running_eq_some_iff.mpr ⟨hbusy, hd⟩) (by simp [hnone])
    | error e => simp [coreAction, coreState, hbusy, hd]
  simp only [step, nextAction_of_coreMoves hcore, haction]

theorem step_of_coreMoves_of_not_busy {s : State} (hcore : CoreMoves s) (hbusy : s.phase ≠ .busy) :
    step s = .next (coreState s) :=
  step_settle ((nextAction_of_coreMoves hcore).trans (coreAction_of_not_busy (s := coreState s) hbusy))

/-- The CORE does not move exactly where another event is pending. -/
theorem pending_of_not_coreMoves {s : State} (h : ¬ CoreMoves s) : ∃ e rest, s.sched = e :: rest ∧ e ≠ .core := by
  cases hs : s.sched with
  | nil => exact absurd (.inl hs) h
  | cons e rest => exact ⟨e, rest, rfl, fun he => h (.inr (by rw [hs, he]; rfl))⟩

theorem eq_nop_or_start_of_decodeCommand {w : Word} {i : Instr} (h : decodeCommand w = .ok i) :
    i = .nop ∨ i = .start := by
  unfold decodeCommand at h
  split at h
  · cases h
  split at h
  · cases h; exact .inl rfl
  split at h
  · cases h; exact .inr rfl
  · cases h

/-- A write to CMD runs one of the two commands or is refused (spec/40_driver.md R130 to R132). -/
theorem commandAction_cases (w : Word) (s : State) :
    commandAction w s = .settle (refuseCommand s) ∨ ∃ i, (i = .nop ∨ i = .start) ∧ commandAction w s = .run i s := by
  unfold commandAction
  cases hd : decodeCommand w with
  | ok i => exact .inr ⟨i, eq_nop_or_start_of_decodeCommand hd, rfl⟩
  | error e => exact .inl rfl

/-- An event that is not the CORE's is settled at once or runs a host command. -/
theorem eventAction_cases {e : Event} (h : e ≠ .core) (s : State) :
    (∃ t, eventAction e s = .settle t) ∨ ∃ i, (i = .nop ∨ i = .start) ∧ eventAction e s = .run i s := by
  cases e with
  | core => exact absurd rfl h
  | regWrite off v =>
    by_cases hcmd : off = regOffset .cmd
    · rw [eventAction, if_pos hcmd]
      exact (commandAction_cases v s).imp_left fun hrefuse => ⟨_, hrefuse⟩
    · exact .inl ⟨_, if_neg hcmd⟩
  | _ => exact .inl ⟨_, rfl⟩

/-- While BUSY an access of the host that is settled at once keeps the inputs. -/
theorem keepsInputs_of_settle {e : Event} {s t : State} (hbusy : s.phase = .busy) (hreset : e ≠ .reset)
    (h : eventAction e s = .settle t) : KeepsInputs s t := by
  cases e with
  | core =>
    rw [eventAction, coreAction, if_pos hbusy] at h
    split at h <;> cases h
  | regWrite off v =>
    rw [eventAction] at h
    split at h
    · rcases commandAction_cases v s with hrefuse | ⟨i, _, hrun⟩
      · rw [hrefuse] at h; cases h; exact ⟨rfl, rfl, rfl, rfl, rfl, rfl⟩
      · rw [hrun] at h; cases h
    · rw [hostRegWrite_of_busy hbusy] at h; cases h; exact .refl s
  | pixWrite a b =>
    rw [eventAction, hostPixWrite_of_ignored (.inl hbusy)] at h
    cases h
    exact .refl s
  | regRead off | pixRead a | outRead a => cases h; exact ⟨rfl, rfl, rfl, rfl, rfl, rfl⟩
  | reset => exact absurd rfl hreset

/-! ### Where instructions and steps stop -/

theorem exec_next {i : Instr} (hcsc : i ≠ .csc) (hhac : i ≠ .hac) (s : State) : ∃ t, exec i s = .next t := by
  rw [exec_eq_finish hcsc]
  exact finish_next hhac _

theorem exec_csc_next {s : State} (h : ¬ FetchOutside s) : ∃ t, exec .csc s = .next t := by
  rw [exec_csc_of_inside h]
  exact finish_next (by decide) _

/-- Writing to the bitstream does not move the block of which HAC is the end. -/
theorem WriterFrame.noAdvance_iff {s t : State} (h : WriterFrame s t) : NoAdvance t ↔ NoAdvance s := by
  rw [show t = _ from h]
  exact Iff.rfl

theorem exec_hac_cases (s : State) :
    (∃ t, exec .hac s = .next t) ∨ (NoAdvance s ∧ exec .hac s = .fault .sequencerOutside) := by
  have hframe : WriterFrame s (instrBody s .hac).endState := writerFrame_codeAc _ _ 0 s
  rw [exec_eq_finish (by decide)]
  revert hframe
  cases instrBody s .hac with
  | done t =>
    intro hframe
    rcases advanceHac_next_or_fault t with hnext | ⟨hstop, hfault⟩
    · exact .inl hnext
    · exact .inr ⟨hframe.noAdvance_iff.mp hstop, hfault⟩
  | raised c e t => exact fun _ => .inl ⟨_, rfl⟩

theorem advanceHac_of_noAdvance {s : State} (h : NoAdvance s) : advanceHac s = .fault .sequencerOutside := by
  obtain ⟨hbi, hout⟩ := h
  have hlast : ¬ s.bi.val < 5 := by rw [hbi]; decide
  rw [advanceHac, dif_neg hlast, if_neg (by omega), if_neg (by omega), if_neg (by omega)]

theorem pendingBits_length_lt (s : State) : (pendingBits s).length < 8 := by
  rw [pendingBits, bitsOf_length]
  exact s.bitcnt.isLt

/-- HAC completes where every category has a code and the bytes fit. -/
theorem codeAc_done {s : State} (hclean : BitsClean s) (hcoded : ∀ v ∈ acCoefs s, cat v.toInt ≤ 10)
    (hroom : Room s (packedBytes s (hacBits s))) :
    codeAc (tabOf s.bi) (acCoefs s) 0 s =
      .done ((s.appendList (packedBytes s (hacBits s))).withPending (packedRest s (hacBits s))) :=
  calc codeAc (tabOf s.bi) (acCoefs s) 0 s
      = putBitList (hacBits s) s := codeAc_of_coded _ _ 0 s hcoded
    _ = putBitList (hacBits s) (s.withPending (pendingBits s)) := by rw [withPending_pendingBits hclean]
    _ = _ := putBitList_done _ _ s (pendingBits_length_lt s) hroom

theorem exec_hac_fault {s : State} (hstop : NoAdvance s) (hclean : BitsClean s)
    (hcoded : ∀ v ∈ acCoefs s, cat v.toInt ≤ 10) (hroom : Room s (packedBytes s (hacBits s))) :
    exec .hac s = .fault .sequencerOutside := by
  have hdone := codeAc_done hclean hcoded hroom
  have hframe := writerFrame_codeAc (tabOf s.bi) (acCoefs s) 0 s
  rw [hdone, endState_done] at hframe
  rw [exec_eq_finish (by decide), instrBody, hdone]
  exact advanceHac_of_noAdvance (hframe.noAdvance_iff.mpr hstop)

/-- A step of anyone but the CORE answers a next state. -/
theorem step_next_of_not_coreMoves {s : State} (h : ¬ CoreMoves s) : ∃ t, step s = .next t := by
  obtain ⟨e, rest, hs, he⟩ := pending_of_not_coreMoves h
  have haction := nextAction_of_pending hs
  rcases eventAction_cases he { s with sched := rest } with ⟨t, hsettle⟩ | ⟨i, hi, hrun⟩
  · exact ⟨t, step_settle (haction.trans hsettle)⟩
  · rw [step_run (haction.trans hrun)]
    rcases hi with rfl | rfl <;> exact exec_next (by decide) (by decide) _

/-- Every way in which a step can stop. -/
theorem step_next_or_stops (s : State) :
    (∃ t, step s = .next t) ∨
    (CoreMoves s ∧ running s = some .csc ∧ FetchOutside s ∧ step s = .fault .pixFetchOutside) ∨
    (CoreMoves s ∧ running s = some .hac ∧ NoAdvance s ∧ step s = .fault .sequencerOutside) ∨
    (CoreMoves s ∧ s.phase = .busy ∧ running s = none ∧ step s = .refused .unusedMicroOp) := by
  by_cases hcore : CoreMoves s
  case neg => exact .inl (step_next_of_not_coreMoves hcore)
  by_cases hbusy : s.phase = .busy
  case neg => exact .inl ⟨_, step_of_coreMoves_of_not_busy hcore hbusy⟩
  cases hi : running s with
  | none => exact .inr (.inr (.inr ⟨hcore, hbusy, rfl, step_of_unused hcore hbusy hi⟩))
  | some i =>
    rw [step_of_running hcore hi]
    by_cases hcsc : i = .csc
    · subst hcsc
      by_cases hout : FetchOutside s
      · exact .inr (.inl ⟨hcore, rfl, hout, exec_csc_of_outside (s := coreState s) hout⟩)
      · exact .inl (exec_csc_next (s := coreState s) hout)
    by_cases hhac : i = .hac
    · subst hhac
      rcases exec_hac_cases (coreState s) with hnext | ⟨hstop, hfault⟩
      · exact .inl hnext
      · exact .inr (.inr (.inl ⟨hcore, rfl, hstop, hfault⟩))
    · exact .inl (exec_next hcsc hhac _)

/-- While BUSY every step but RESET keeps the inputs. -/
theorem step_keepsInputs {s t : State} (hbusy : s.phase = .busy) (hreset : s.sched.head? ≠ some .reset)
    (h : step s = .next t) : KeepsInputs s t := by
  by_cases hcore : CoreMoves s
  · cases hi : running s with
    | none => rw [step_of_unused hcore hbusy hi] at h; cases h
    | some i =>
      rw [step_of_running hcore hi] at h
      have hcoreState : KeepsInputs s (coreState s) := ⟨rfl, rfl, rfl, rfl, rfl, rfl⟩
      exact hcoreState.trans (exec_keepsInputs h)
  · obtain ⟨e, rest, hs, he⟩ := pending_of_not_coreMoves hcore
    have haction := nextAction_of_pending hs
    have htaken : KeepsInputs s { s with sched := rest } := ⟨rfl, rfl, rfl, rfl, rfl, rfl⟩
    have he' : e ≠ .reset := by simpa [hs] using hreset
    refine htaken.trans ?_
    rcases eventAction_cases he { s with sched := rest } with ⟨u, hsettle⟩ | ⟨i, _, hrun⟩
    · rw [step_settle (haction.trans hsettle)] at h
      cases h
      exact keepsInputs_of_settle hbusy he' hsettle
    · rw [step_run (haction.trans hrun)] at h
      exact exec_keepsInputs h

/-! ### The obligations -/

/-- Settles O20: an instruction is its body and an advance, and of these only CSC's fetch and HAC's advance can stop. -/
theorem stopsAreTheNamedOnes : Obligations.StopsAreTheNamedOnes := by
  refine ⟨fun s => ⟨exec_csc_of_outside, exec_csc_next⟩, exec_hac_cases, fun s => exec_hac_fault,
    fun i s hcsc hhac => exec_next hcsc hhac s, fun s e hcore hbusy herror => ?_, step_next_or_stops⟩
  exact step_of_unused hcore hbusy (running_eq_none_of_error herror)

/-- Settles O12: while BUSY the host's writes are ignored, and no instruction writes an input. -/
theorem inputsAreConstantWhileBusy : Obligations.InputsAreConstantWhileBusy := by
  refine ⟨fun s rest off v hbusy hs _ hoff => ?_, fun s rest a b hbusy hs => ?_, fun s t hbusy hreset h => ?_⟩
  · exact step_regWrite_of_busy hs hoff hbusy
  · exact step_pixWrite_of_ignored hs (.inl hbusy)
  · obtain ⟨hparams, hwidth, hheight, hquality, hpixLen, hpixmem⟩ := step_keepsInputs hbusy hreset h
    exact ⟨hparams, hwidth, hheight, hquality, hpixLen, hpixmem⟩

/-- Settles O9: each offset reads its register, and an offset of no register after CMD reads 0. -/
theorem hostRegisterReads : Obligations.HostRegisterReads := by
  intro s rest off hs
  refine ⟨regValue s off, step_regRead hs, ?_, ?_, ?_, ?_, ?_, ?_, ?_, ?_, ?_, ?_⟩
  case refine_1 =>
    rintro rfl
    refine ⟨(statusWord_phase s).trans ?_, statusWord_badcmd s, statusWord_gap s, statusWord_uop s, statusWord_top s⟩
    cases s.phase <;> rfl
  case refine_2 | refine_3 =>
    rintro rfl
    exact BitVec.toNat_setWidth_of_le (show 16 ≤ 32 by omega)
  case refine_4 =>
    rintro rfl
    exact BitVec.toNat_setWidth_of_le (show 8 ≤ 32 by omega)
  case refine_5 | refine_6 | refine_7 | refine_8 =>
    rintro rfl
    rfl
  case refine_9 =>
    intro _ hoff
    refine regValue_of_unmapped s fun r hr heq => ?_
    rcases hoff with hzero | habove
    · exact regOffset_ne_zero hr (heq.symm.trans hzero)
    · have hle := regOffset_toNat_le r
      rw [← heq] at hle
      omega
  case refine_10 =>
    intro hoff
    refine regValue_of_unmapped s fun r _ heq => ?_
    rw [heq, regOffset_aligned] at hoff
    cases hoff

/-- Settles O10: a write inside PIXMEM outside BUSY is one `Memory.write`, any other does nothing. -/
theorem hostPixelAccesses : Obligations.HostPixelAccesses := by
  refine ⟨fun s rest a b hs => ?_, fun s rest a hs => step_pixRead hs⟩
  refine ⟨_, step_pixWrite hs, ?_, fun hbusy ha => ?_, fun hignored => ?_⟩
  · unfold hostPixWrite
    split <;> rfl
  · rw [hostPixWrite_of_writable (s := { s with sched := rest }) hbusy ha]
    exact ⟨pixByte_write_same _ a b, fun x hx => pixByte_write_other { s with sched := rest } b hx⟩
  · rw [hostPixWrite_of_ignored (s := { s with sched := rest }) hignored]

/-- Settles O24: CHK has made sure that the image is not empty and that PIXMEM holds its `W * H * 4` bytes. -/
theorem fetchesAreInsideAfterChk : Obligations.FetchesAreInsideAfterChk := by
  rintro s ⟨hw, hh, -, hfit⟩
  have hpix := pixAddr_add_four_le hw hh
  refine ⟨(mcuFetchInside_iff s).mpr ?_, fun x y => ?_⟩
  · rintro (hw0 | hh0 | hout)
    · exact hw hw0
    · exact hh hh0
    · have := hpix (16 * s.mx.toNat + 15) (16 * s.my.toNat + 15)
      omega
  · have := hpix x y
    omega

/-- Settles O8: outside BUSY a write is `writeConfig`, which has one case for each writable register. -/
theorem hostRegisterWrites : Obligations.HostRegisterWrites := by
  intro s rest off v hs hoff
  refine ⟨step_regWrite_of_busy hs hoff, fun hbusy => ?_⟩
  rw [step_regWrite_of_not_busy hs hoff hbusy]
  refine ⟨?_, ?_, ?_, ?_, fun hw hh hq hp => by rw [writeConfig_of_unmapped _ hw hh hq hp]⟩
  case refine_1 | refine_2 | refine_3 | refine_4 =>
    rintro rfl
    rfl

/-- Settles O11: the gate is OUT_LEN, which is WP in DONE and 0 otherwise. -/
theorem outReadIsGated : Obligations.OutReadIsGated := by
  intro s rest a hs hwp
  rw [step_outRead hs]
  refine ⟨fun hdone ha => ?_, fun hgate => ?_⟩
  · rw [outReadValue_of_below hdone ha (by omega)]
    rfl
  · rw [outReadValue_of_gated hgate]
    rfl

end Sys2Proof.Machine
end

section
/-! The codes of spec/30_encoding.md R91 and R92, read and written. -/

namespace Sys2Proof.Machine

theorem decode_encode (i : Instr) : decode (encode i) = .ok i := by
  cases i <;> rfl

/-- A command word is its two fields. -/
theorem commandZero_append_commandOpc (w : Word) : commandZero w ++ commandOpc w = w := by
  apply BitVec.eq_of_getLsbD_eq
  intro k hk
  simp only [commandZero, commandOpc, BitVec.getLsbD_append, BitVec.getLsbD_extractLsb']
  grind

theorem encode_of_decodeCommand {w : Word} {i : Instr} (h : decodeCommand w = .ok i) : encode i = .command w := by
  rw [← commandZero_append_commandOpc w]
  unfold decodeCommand at h
  split at h
  · cases h
  next hzero =>
    rw [Decidable.not_not.mp hzero]
    split at h
    next hopc => cases h; rw [hopc]; rfl
    split at h
    next hopc => cases h; rw [hopc]; rfl
    · cases h

/-- One branch of the micro-operation map: what it answers encodes to the byte it has tested for. -/
theorem encode_of_branch {b c : Byte} {i j : Instr} {rest : Except DecodeReject Instr} (hj : encode j = .uop c)
    (hrest : rest = .ok i → encode i = .uop b) : (if b = c then .ok j else rest) = .ok i → encode i = .uop b := by
  split
  next hb => rintro ⟨⟩; rw [hj, hb]
  · exact hrest

theorem encode_of_decodeUop {b : Byte} {i : Instr} : decodeUop b = .ok i → encode i = .uop b := by
  unfold decodeUop
  iterate 23 refine encode_of_branch rfl ?_
  exact nofun

theorem encode_of_decode {c : Code} {i : Instr} (h : decode c = .ok i) : encode i = c := by
  cases c with
  | command w => exact encode_of_decodeCommand h
  | uop b => exact encode_of_decodeUop h

/-- Settles O1: `encode` is a right inverse of `decode` by its rows, and a left inverse by the branches of `decode`. -/
theorem decodeAndEncodeAgree : Obligations.DecodeAndEncodeAgree := by
  refine fun c i _ => ⟨encode_of_decode, ?_⟩
  rintro rfl
  exact decode_encode i

/-- Settles O2: the listed words are codes of `encode`, and the others fail the tests on the fields `ZERO` and `OPC` or
are no micro-operation code. -/
theorem sampleWordsDecode : Obligations.SampleWordsDecode :=
  ⟨decode_encode .nop, decode_encode .start, rfl, rfl, decode_encode .chk, decode_encode .wsof0, decode_encode .weoi,
    decode_encode .hac, decode_encode .fin, rfl⟩

end Sys2Proof.Machine
end

section
/-! Amplitude bits and the AC items of a block, as a decoder reads them (spec/30_encoding.md R104, R105). -/

namespace Sys2Proof.Machine

/-! ### Amplitude bits (spec/30_encoding.md R105) -/

/-- The category of a value that is not 0, between two powers of 2 (spec/46_entropy.md R220). -/
theorem exists_cat_eq_succ {v : Int} (h : v ≠ 0) : ∃ k, cat v = k + 1 ∧ 2 ^ k ≤ v.natAbs ∧ v.natAbs < 2 ^ (k + 1) := by
  have h0 : v.natAbs ≠ 0 := Int.natAbs_ne_zero.mpr h
  have hcat : cat v = Nat.log2 v.natAbs + 1 := if_neg h0
  exact ⟨_, hcat, Nat.log2_self_le h0, Nat.lt_log2_self⟩

theorem amp_of_pos {v : Int} (h : 0 < v) (s : Nat) : (amp v s : Int) = v := by
  rw [amp, if_pos h]
  exact Int.toNat_of_nonneg (Int.le_of_lt h)

theorem amp_of_neg {v : Int} {s : Nat} (h : v < 0) (hs : v.natAbs < 2 ^ s) : (amp v s : Int) = v + 2 ^ s - 1 := by
  rw [amp, if_neg (Int.not_lt.mpr (Int.le_of_lt h))]
  have : ((2 ^ s : Nat) : Int) = 2 ^ s := by push_cast; rfl
  exact Int.toNat_of_nonneg (by omega)

/-- Settles O37: in category `k + 1` a positive value is in the upper half of the numbers of `k + 1` bits, a negative one
is coded in the lower half. -/
theorem amplitudeBitsDecode : Obligations.AmplitudeBitsDecode := by
  intro v hv
  obtain ⟨k, hcat, hlow, hhigh⟩ := exists_cat_eq_succ hv
  rw [hcat, Nat.add_sub_cancel, ampDecode, Nat.add_sub_cancel]
  have hcast : ((2 ^ (k + 1) : Nat) : Int) = 2 ^ (k + 1) := by push_cast; rfl
  have hdouble : 2 ^ (k + 1) = 2 * 2 ^ k := Nat.pow_succ'
  rcases Int.lt_or_gt_of_ne hv with hneg | hpos
  · have hamp := amp_of_neg hneg hhigh
    have hlt : amp v (k + 1) < 2 ^ k := by omega
    have hmod : (v - 1) % 2 ^ (k + 1) = v + 2 ^ (k + 1) - 1 := by
      rw [← Int.add_emod_right, Int.emod_eq_of_lt] <;> omega
    refine ⟨fun h => by omega, fun _ => ⟨hamp, hamp.trans hmod.symm⟩, by omega, ?_, fun h => by omega, fun _ => ?_⟩
    · rw [if_neg (Nat.not_le.mpr hlt)]
      omega
    · exact Nat.testBit_lt_two_pow hlt
  · have hamp := amp_of_pos hpos (k + 1)
    have hle : 2 ^ k ≤ amp v (k + 1) := by omega
    have hlt : amp v (k + 1) < 2 ^ (k + 1) := by omega
    refine ⟨fun _ => hamp, fun h => by omega, hlt, ?_, fun _ => ?_, fun h => by omega⟩
    · rwa [if_pos hle]
    · exact Nat.testBit_of_two_pow_le_and_two_pow_add_one_gt hle hlt

/-! ### What the items of a block are -/

theorem mem_coefItems {r : Nat} {v : Int} {item : AcItem} (h : item ∈ coefItems r v) :
    item = .zrl ∨ item = .coef (r % 16) v := by
  rcases List.mem_append.mp h with hzrl | hcoef
  · exact .inl (List.eq_of_mem_replicate hzrl)
  · exact .inr (List.mem_singleton.mp hcoef)

theorem eob_notMem_coefItems (r : Nat) (v : Int) : AcItem.eob ∉ coefItems r v := fun h => by
  rcases mem_coefItems h with he | he <;> cases he

/-- A run fits its four bits, and no coefficient item codes 0. -/
theorem acItems_coef {vs : List Int} {r run : Nat} {v : Int} (h : .coef run v ∈ acItems vs r) : run ≤ 15 ∧ v ≠ 0 := by
  induction vs generalizing r with
  | nil =>
    unfold acItems at h
    split at h <;> simp at h
  | cons w ws ih =>
    unfold acItems at h
    split at h
    · exact ih h
    next hw =>
      rcases List.mem_append.mp h with hitem | hrest
      · rcases mem_coefItems hitem with he | he <;> cases he
        exact ⟨by omega, hw⟩
      · exact ih hrest

/-- EOB is the last item, and the only one of its kind. -/
theorem eob_notMem_dropLast_acItems (vs : List Int) (r : Nat) : AcItem.eob ∉ (acItems vs r).dropLast := by
  induction vs generalizing r with
  | nil =>
    unfold acItems
    split <;> simp
  | cons w ws ih =>
    unfold acItems
    split
    · exact ih (r + 1)
    · by_cases hrest : acItems ws 0 = []
      · rw [hrest, List.append_nil]
        exact fun h => eob_notMem_coefItems r w (List.dropLast_subset _ h)
      · rw [List.dropLast_append_of_ne_nil hrest, List.mem_append, not_or]
        exact ⟨eob_notMem_coefItems r w, ih 0⟩

/-- EOB stands for a trailing run of zeros: `r` counts those before `vs`. -/
theorem eob_notMem_acItems {vs : List Int} {r : Nat} (hrun : vs = [] → r = 0) (hlast : vs.getLast? ≠ some 0) :
    AcItem.eob ∉ acItems vs r := by
  induction vs generalizing r with
  | nil => simp [acItems, hrun rfl]
  | cons w ws ih =>
    have hlast' : ws ≠ [] → ws.getLast? ≠ some 0 := fun hne => by
      rwa [List.getLast?_cons_of_ne_nil hne] at hlast
    unfold acItems
    split
    next hw =>
      have hne : ws ≠ [] := by
        rintro rfl
        exact hlast (by rw [hw]; rfl)
      exact ih (absurd · hne) (hlast' hne)
    · rw [List.mem_append, not_or]
      refine ⟨eob_notMem_coefItems r w, ?_⟩
      by_cases hws : ws = []
      · subst hws
        exact List.not_mem_nil
      · exact ih (absurd · hws) (hlast' hws)

/-! ### Expanding the items -/

theorem expandItems_replicate_zrl (n k : Nat) (rest : List AcItem) :
    expandItems n (List.replicate k .zrl ++ rest) = List.replicate (16 * k) 0 ++ expandItems (n - 16 * k) rest := by
  induction k generalizing n with
  | zero => rfl
  | succ k ih =>
    rw [List.replicate_succ, List.cons_append, expandItems, ih, ← List.append_assoc, List.replicate_append_replicate,
      Nat.sub_sub, Nat.mul_succ, Nat.add_comm 16]

/-- A run and its coefficient expand to `r` zeros and the coefficient (spec/46_entropy.md R224). -/
theorem expandItems_coefItems (n r : Nat) (v : Int) (rest : List AcItem) :
    expandItems n (coefItems r v ++ rest) = List.replicate r 0 ++ v :: expandItems (n - (r + 1)) rest := by
  have hr : 16 * (r / 16) + r % 16 = r := Nat.div_add_mod r 16
  rw [coefItems, List.append_assoc, expandItems_replicate_zrl, List.singleton_append, expandItems, ← List.append_assoc,
    List.replicate_append_replicate, Nat.sub_sub, ← Nat.add_assoc, hr]

/-- The items after `r` zeros expand to those zeros and the coefficients. -/
theorem expandItems_acItems (vs : List Int) (r : Nat) :
    expandItems (r + vs.length) (acItems vs r) = List.replicate r 0 ++ vs := by
  induction vs generalizing r with
  | nil =>
    unfold acItems
    split
    · simp [expandItems]
    next hr => simp [expandItems, Nat.eq_zero_of_not_pos hr]
  | cons w ws ih =>
    unfold acItems
    split
    next hw =>
      have hlen : r + (w :: ws).length = r + 1 + ws.length := by
        rw [List.length_cons]
        omega
      rw [hlen, ih, List.replicate_succ', List.append_assoc, List.singleton_append, hw]
    · have hlen : r + (w :: ws).length - (r + 1) = 0 + ws.length := by
        rw [List.length_cons]
        omega
      rw [expandItems_coefItems, hlen, ih, List.replicate_zero, List.nil_append]

/-- Settles O41, from the same facts about the items after any number of zeros. -/
theorem acItemsDetermineTheBlock : Obligations.AcItemsDetermineTheBlock := by
  intro vs
  refine ⟨?_, fun r v => acItems_coef, eob_notMem_dropLast_acItems vs 0, eob_notMem_acItems fun _ => rfl⟩
  simpa using expandItems_acItems vs 0

end Sys2Proof.Machine
end

section
/-! The Huffman codes of spec/30_encoding.md R106: no canonical code begins another, and the tables of R111. -/

namespace Sys2Proof.Machine

/-! ### Canonical codes (spec/30_encoding.md R106) -/

/-- `f` comes after `e` in canonical order: it is no shorter, and its first `e.len` bits are above `e`'s code. -/
def HuffEntry.Before (e f : HuffEntry) : Prop :=
  e.len ≤ f.len ∧ (e.code + 1) * 2 ^ (f.len - e.len) ≤ f.code

/-- The first `len` bits of `e`'s code are `code` or above. -/
def HuffEntry.From (len code : Nat) (e : HuffEntry) : Prop :=
  len ≤ e.len ∧ code * 2 ^ (e.len - len) ≤ e.code

/-- The next length doubles the next code. -/
theorem HuffEntry.From.of_succ {len code : Nat} {e : HuffEntry} (h : e.From (len + 1) (code * 2)) :
    e.From len code := by
  obtain ⟨hlen, hcode⟩ := h
  refine ⟨by omega, ?_⟩
  rwa [show e.len - len = e.len - (len + 1) + 1 by omega, Nat.pow_succ', ← Nat.mul_assoc]

theorem HuffEntry.From.mono {len a b : Nat} {e : HuffEntry} (h : e.From len b) (hab : a ≤ b) : e.From len a :=
  ⟨h.1, Nat.le_trans (Nat.mul_le_mul_right _ hab) h.2⟩

theorem mem_codesOfLength {len code : Nat} {vs : List Nat} {e : HuffEntry} (h : e ∈ codesOfLength len code vs) :
    e.len = len ∧ code ≤ e.code ∧ e.code < code + vs.length := by
  induction vs generalizing code with
  | nil => cases h
  | cons v vs ih =>
    rw [List.length_cons]
    rcases List.mem_cons.mp h with rfl | hrest
    · exact ⟨rfl, Nat.le_refl _, by dsimp only; omega⟩
    · obtain ⟨hlen, hle, hlt⟩ := ih hrest
      exact ⟨hlen, by omega, by omega⟩

theorem codesOfLength_pairwise (len code : Nat) (vs : List Nat) :
    (codesOfLength len code vs).Pairwise HuffEntry.Before := by
  induction vs generalizing code with
  | nil => exact .nil
  | cons v vs ih =>
    refine .cons (fun f hf => ?_) (ih (code + 1))
    obtain ⟨hlen, hle, -⟩ := mem_codesOfLength hf
    refine ⟨Nat.le_of_eq hlen.symm, ?_⟩
    dsimp only
    rwa [hlen, Nat.sub_self, Nat.pow_zero, Nat.mul_one]

theorem mem_assignCodes {bits vals : List Nat} {len code : Nat} {e : HuffEntry}
    (h : e ∈ assignCodes len code bits vals) : e.From len code := by
  induction bits generalizing len code vals with
  | nil => cases h
  | cons n bits ih =>
    rcases List.mem_append.mp h with hhere | hlater
    · obtain ⟨hlen, hle, -⟩ := mem_codesOfLength hhere
      refine ⟨Nat.le_of_eq hlen.symm, ?_⟩
      rwa [hlen, Nat.sub_self, Nat.pow_zero, Nat.mul_one]
    · exact (ih hlater).of_succ.mono (Nat.le_add_right code n)

/-- Codes are assigned in canonical order. -/
theorem assignCodes_pairwise (bits vals : List Nat) (len code : Nat) :
    (assignCodes len code bits vals).Pairwise HuffEntry.Before := by
  induction bits generalizing len code vals with
  | nil => exact .nil
  | cons n bits ih =>
    refine List.pairwise_append.mpr ⟨codesOfLength_pairwise len code _, ih _ _ _, fun e he f hf => ?_⟩
    obtain ⟨hlen, -, hlt⟩ := mem_codesOfLength he
    have htake := List.length_take_le n vals
    obtain ⟨hle, hcode⟩ := (mem_assignCodes hf).of_succ.mono (show e.code + 1 ≤ code + n by omega)
    rw [← hlen] at hle hcode
    exact ⟨hle, hcode⟩

/-! ### Codes that begin other codes -/

/-- The first bits of a number are those of its quotient. -/
theorem take_bitsOf (v m k : Nat) : (bitsOf v (m + k)).take m = bitsOf (v / 2 ^ k) m := by
  induction m with
  | zero => rfl
  | succ m ih =>
    rw [Nat.succ_add, bitsOf, List.take_succ_cons, ih, bitsOf, Nat.testBit_div_two_pow]

theorem bitsOf_injOn {a b n : Nat} (ha : a < 2 ^ n) (hb : b < 2 ^ n) (h : bitsOf a n = bitsOf b n) : a = b := by
  have hnat := congrArg natOfBits h
  rwa [natOfBits_bitsOf, natOfBits_bitsOf, Nat.mod_eq_of_lt ha, Nat.mod_eq_of_lt hb] at hnat

/-- A code that begins another is the quotient of the longer one. -/
theorem code_eq_div_of_isPrefix {e f : HuffEntry} (he : e.code < 2 ^ e.len) (hf : f.code < 2 ^ f.len)
    (h : bitsOf e.code e.len <+: bitsOf f.code f.len) : e.len ≤ f.len ∧ e.code = f.code / 2 ^ (f.len - e.len) := by
  have hlen : e.len ≤ f.len := by simpa using h.length_le
  obtain ⟨k, hk⟩ := Nat.exists_eq_add_of_le hlen
  have hdiv : f.code / 2 ^ k < 2 ^ e.len := by
    rw [Nat.div_lt_iff_lt_mul (Nat.two_pow_pos k), ← Nat.pow_add, ← hk]
    exact hf
  refine ⟨hlen, ?_⟩
  rw [hk, Nat.add_sub_cancel_left]
  refine bitsOf_injOn he hdiv ?_
  rw [← take_bitsOf, ← hk]
  simpa using List.prefix_iff_eq_take.mp h

/-- Of two codes in canonical order neither begins the other. -/
theorem HuffEntry.Before.not_isPrefix {e f : HuffEntry} (h : e.Before f) (he : e.code < 2 ^ e.len)
    (hf : f.code < 2 ^ f.len) :
    ¬ (bitsOf e.code e.len <+: bitsOf f.code f.len) ∧ ¬ (bitsOf f.code f.len <+: bitsOf e.code e.len) := by
  obtain ⟨hlen, hcode⟩ := h
  refine ⟨fun hp => ?_, fun hp => ?_⟩
  · obtain ⟨-, hdiv⟩ := code_eq_div_of_isPrefix he hf hp
    rw [← Nat.le_div_iff_mul_le (Nat.two_pow_pos _)] at hcode
    omega
  · obtain ⟨hlen', hdiv⟩ := code_eq_div_of_isPrefix hf he hp
    rw [Nat.le_antisymm hlen hlen', Nat.sub_self, Nat.pow_zero] at hcode hdiv
    omega

/-! ### The four tables (spec/30_encoding.md R107 to R111) -/

theorem codes_eq_listedCodes (cls : HuffClass) (t : Fin 2) : (huffSpec cls t).codes = listedCodes cls t := by
  match cls, t with
  | .dc, 0 => rfl
  | .dc, 1 => rfl
  | .ac, 0 => rfl
  | .ac, 1 => rfl

/-- The bounds on a row of R111: the length is 2 .. 16, the code fits it, and is not all 1 bits. -/
def HuffEntry.inBounds (e : HuffEntry) : Bool :=
  2 ≤ e.len && e.len ≤ 16 && e.code < 2 ^ e.len && e.code + 1 != 2 ^ e.len

theorem HuffEntry.inBounds_iff (e : HuffEntry) :
    e.inBounds = true ↔ 2 ≤ e.len ∧ e.len ≤ 16 ∧ e.code < 2 ^ e.len ∧ e.code + 1 ≠ 2 ^ e.len := by
  simp [HuffEntry.inBounds, and_assoc]

theorem listedCodes_inBounds (cls : HuffClass) (t : Fin 2) : (listedCodes cls t).all HuffEntry.inBounds = true := by
  match cls, t with
  | .dc, 0 => decide
  | .dc, 1 => decide
  | .ac, 0 => decide
  | .ac, 1 => decide

/-- The lookup finds a row at its own symbol: no row before it has the symbol too. -/
def foundIn (rows : List HuffEntry) (e : HuffEntry) : Bool := rows.find? (fun f => f.sym == e.sym) == some e

theorem acListed0_found : acListed0.all (foundIn acListed0) = true :=
  calc acListed0.all (foundIn acListed0)
      = [acListed0a, acListed0b, acListed0c, acListed0d, acListed0e, acListed0f].flatten.all (foundIn acListed0) := rfl
    _ = [acListed0a, acListed0b, acListed0c, acListed0d, acListed0e, acListed0f].all (·.all (foundIn acListed0)) :=
      List.all_flatten
    _ = true := by decide

theorem acListed1_found : acListed1.all (foundIn acListed1) = true :=
  calc acListed1.all (foundIn acListed1)
      = [acListed1a, acListed1b, acListed1c, acListed1d, acListed1e, acListed1f].flatten.all (foundIn acListed1) := rfl
    _ = [acListed1a, acListed1b, acListed1c, acListed1d, acListed1e, acListed1f].all (·.all (foundIn acListed1)) :=
      List.all_flatten
    _ = true := by decide

theorem listedCodes_found (cls : HuffClass) (t : Fin 2) :
    (listedCodes cls t).all (foundIn (listedCodes cls t)) = true := by
  match cls, t with
  | .dc, 0 => decide
  | .dc, 1 => decide
  | .ac, 0 => exact acListed0_found
  | .ac, 1 => exact acListed1_found

theorem huffLookup_eq_find (cls : HuffClass) (t : Fin 2) (sym : Nat) :
    huffLookup cls t sym = (listedCodes cls t).find? fun e => e.sym == sym := by
  rw [huffLookup, codes_eq_listedCodes]

/-- Settles O38: canonical codes that fit their lengths do not begin each other; the rest is read off the listed rows. -/
theorem huffmanCodesAreListedAndPrefixFree : Obligations.HuffmanCodesAreListedAndPrefixFree := by
  intro cls t
  have hbounds : ∀ e ∈ (huffSpec cls t).codes,
      2 ≤ e.len ∧ e.len ≤ 16 ∧ e.code < 2 ^ e.len ∧ e.code + 1 ≠ 2 ^ e.len := by
    intro e he
    rw [codes_eq_listedCodes] at he
    exact e.inBounds_iff.mp (List.all_eq_true.mp (listedCodes_inBounds cls t) e he)
  refine ⟨codes_eq_listedCodes cls t, fun e he => ?_, fun sym e he => ?_, ?_, hbounds⟩
  · rw [huffLookup_eq_find]
    exact beq_iff_eq.mp (List.all_eq_true.mp (listedCodes_found cls t) e he)
  · rw [huffLookup_eq_find] at he
    exact ⟨List.mem_of_find?_eq_some he, beq_iff_eq.mp (List.find?_some (p := fun e : HuffEntry => e.sym == sym) he)⟩
  · refine (assignCodes_pairwise _ _ 1 0).imp_of_mem fun he hf hbefore => ?_
    obtain ⟨-, -, hecode, -⟩ := hbounds _ he
    obtain ⟨-, -, hfcode, -⟩ := hbounds _ hf
    exact hbefore.not_isPrefix hecode hfcode

end Sys2Proof.Machine
end

section
/-! The header's layout (spec/30_encoding.md R94). -/

namespace Sys2Proof.Machine

/-- The bytes of the segment that `i` writes; none where it is no marker micro-operation. -/
abbrev segmentOf (s : State) (i : Instr) : List Byte := (segmentBytes s i).getD []

theorem headerBytes_eq_flatMap (s : State) : headerBytes s = headerInstrs.flatMap (segmentOf s) := rfl

/-- What a header segment takes: up to the offset of the next one (R94). -/
def segmentLength (i : Instr) : Nat :=
  match nextInOrder i with
  | some j => headerOffset j - headerOffset i
  | none => 0

theorem headerOffset_add_segmentLength {i j : Instr} (hi : i ∈ headerInstrs) (hj : nextInOrder i = some j) :
    headerOffset i + segmentLength i = headerOffset j := by
  rw [segmentLength, hj]
  revert hi
  cases i <;> cases hj <;> decide

/-- The AC table specifications hold 16 counts and 162 symbols (R108, R110). -/
theorem acSpec0_lengths : acSpec0.bits.length = 16 ∧ acSpec0.vals.length = 162 :=
  ⟨rfl, by simp only [acSpec0, List.length_cons, List.length_nil]⟩

theorem acSpec1_lengths : acSpec1.bits.length = 16 ∧ acSpec1.vals.length = 162 :=
  ⟨rfl, by simp only [acSpec1, List.length_cons, List.length_nil]⟩

theorem length_segmentOf (s : State) {i : Instr} (h : i ∈ headerInstrs) : (segmentOf s i).length = segmentLength i := by
  cases i
  case wsoi | wapp0 | wsof0 | wdht0 | wdht2 | wsos => rfl
  case wdqt0 | wdqt1 => simp [segmentOf, segmentBytes, segmentLength, nextInOrder, headerOffset]
  case wdht1 => simp [segmentOf, segmentBytes, segmentLength, nextInOrder, headerOffset, acSpec0_lengths]
  case wdht3 => simp [segmentOf, segmentBytes, segmentLength, nextInOrder, headerOffset, acSpec1_lengths]
  all_goals exact absurd h (by decide)

/-- The lengths of the header's segments, in their order (R94). -/
def segmentLengths : List Nat := [2, 18, 69, 69, 19, 33, 183, 33, 183, 14]

theorem map_length_segmentOf (s : State) :
    headerInstrs.map (fun i => (segmentOf s i).length) = segmentLengths :=
  calc headerInstrs.map (fun i => (segmentOf s i).length)
      = headerInstrs.map segmentLength := List.map_congr_left fun _ => length_segmentOf s
    _ = segmentLengths := rfl

theorem length_flatMap_segmentOf (s : State) (k : Nat) :
    ((headerInstrs.take k).flatMap (segmentOf s)).length = (segmentLengths.take k).sum := by
  rw [List.length_flatMap, List.map_take, map_length_segmentOf]

theorem headerBytes_length (s : State) : (headerBytes s).length = 623 :=
  length_flatMap_segmentOf s 10

/-- Where a marker micro-operation stands in the header, and what the segments before it take. -/
theorem headerInstrs_at {i : Instr} (h : i ∈ headerInstrs) :
    headerInstrs = headerInstrs.take (rank i - 3) ++ i :: headerInstrs.drop (rank i - 2) ∧
      (segmentLengths.take (rank i - 3)).sum = headerOffset i := by
  revert h
  cases i <;> decide

/-- A segment stands in the header at its offset. -/
theorem segmentOf_eq_slice (s : State) {i : Instr} (h : i ∈ headerInstrs) :
    segmentOf s i = ((headerBytes s).drop (headerOffset i)).take (segmentOf s i).length := by
  obtain ⟨hsplit, hsum⟩ := headerInstrs_at h
  have hbytes : headerBytes s = (headerInstrs.take (rank i - 3)).flatMap (segmentOf s) ++
      (segmentOf s i ++ (headerInstrs.drop (rank i - 2)).flatMap (segmentOf s)) := by
    rw [headerBytes_eq_flatMap, ← List.flatMap_cons, ← List.flatMap_append, ← hsplit]
  rw [hbytes, List.drop_left' ((length_flatMap_segmentOf s _).trans hsum), List.take_left]

/-- Settles O46: a segment's offset is the sum of the lengths before it. -/
theorem headerHasTheStatedLayout : Obligations.HeaderHasTheStatedLayout := fun s =>
  ⟨map_length_segmentOf s, headerBytes_length s, fun _ => segmentOf_eq_slice s⟩

end Sys2Proof.Machine
end

section
/-! The invariant of the file is kept by every step: what each micro-operation appends to OUTMEM, and what the host's
accesses leave alone (spec/30_encoding.md R94, spec/47_bitstream.md R261). -/

namespace Sys2Proof.Machine

/-! ### Bytes of OUTMEM -/

theorem Appended.refl (s : State) : Appended s s [] :=
  ⟨rfl, fun _ hk => absurd hk (Nat.not_lt_zero _), fun _ _ => rfl⟩

theorem Appended.outByte_below {s t : State} {bytes : List Byte} (h : Appended s t bytes) {a : Nat}
    (ha : a < s.wp.toNat) : outByte t a = outByte s a := by
  obtain ⟨-, -, hother⟩ := h
  exact hother a (.inl ha)

theorem Appended.outByte_at {s t : State} {bytes : List Byte} (h : Appended s t bytes) {k : Nat} {b : Byte}
    (hb : bytes[k]? = some b) : outByte t (s.wp.toNat + k) = b := by
  obtain ⟨-, hnew, -⟩ := h
  obtain ⟨hk, -⟩ := List.getElem?_eq_some_iff.mp hb
  exact Option.some.inj ((hnew k hk).trans hb)

theorem outByte_congr {s t : State} (h : t.outmem = s.outmem) (a : Nat) : outByte t a = outByte s a := by
  rw [outByte, outByte, h]

/-- What `headerBytes` reads, and STATE, are the same. -/
structure KeepsHeader (s t : State) : Prop where
  phase : t.phase = s.phase
  width : t.width = s.width
  height : t.height = s.height
  qt : t.qt = s.qt

theorem WriterFrame.keepsHeader {s t : State} (h : WriterFrame s t) : KeepsHeader s t := by
  rw [show t = _ from h]
  exact ⟨rfl, rfl, rfl, rfl⟩

theorem KeepsHeader.segmentBytes_eq {s t : State} (h : KeepsHeader s t) (i : Instr) :
    segmentBytes t i = segmentBytes s i := by
  cases i
  case wdqt0 | wdqt1 => simp only [segmentBytes, h.qt]
  case wsof0 => simp only [segmentBytes, h.width, h.height]
  all_goals rfl

theorem KeepsHeader.headerBytes_eq {s t : State} (h : KeepsHeader s t) : headerBytes t = headerBytes s := by
  simp only [headerBytes, h.segmentBytes_eq]

/-- The header written before stays where it is. -/
theorem headerOk_of_appended {n : Nat} {s t : State} {bytes : List Byte} (hkeep : KeepsHeader s t)
    (happ : Appended s t bytes) (hn : n ≤ s.wp.toNat) (h : HeaderOk n s) : HeaderOk n t := by
  intro k hk
  rw [happ.outByte_below (Nat.lt_of_lt_of_le hk hn), hkeep.headerBytes_eq]
  exact h k hk

/-- A segment appended at its offset extends the header by its length. -/
theorem headerOk_of_segment {i : Instr} {s t : State} (hi : i ∈ headerInstrs) (hkeep : KeepsHeader s t)
    (happ : Appended s t (segmentOf s i)) (hwp : s.wp.toNat = headerOffset i) (h : HeaderOk (headerOffset i) s) :
    HeaderOk (headerOffset i + (segmentOf s i).length) t := by
  intro k hk
  by_cases hold : k < headerOffset i
  · exact headerOk_of_appended hkeep happ (Nat.le_of_eq hwp.symm) h k hold
  · obtain ⟨m, rfl⟩ := Nat.exists_eq_add_of_le (Nat.not_lt.mp hold)
    have hm : m < (segmentOf s i).length := Nat.lt_of_add_lt_add_left hk
    have hslice : (segmentOf s i)[m]? = (headerBytes s)[headerOffset i + m]? := by
      rw [segmentOf_eq_slice s hi, List.getElem?_take_of_lt hm, List.getElem?_drop]
    obtain ⟨-, hnew, -⟩ := happ
    rw [hkeep.headerBytes_eq, ← hslice, ← hwp]
    exact hnew m hm

/-! ### Stuffing (spec/30_encoding.md R112) -/

/-- In bytes that have been stuffed one by one every 0xFF is followed by 0x00. -/
theorem zero_after_ff_of_stuffed {bs : List Byte} {k : Nat} (h : (bs.flatMap stuffed)[k]? = some 0xFF) :
    (bs.flatMap stuffed)[k + 1]? = some 0x00 := by
  induction bs generalizing k with
  | nil => cases h
  | cons b bs ih =>
    rw [List.flatMap_cons] at h ⊢
    by_cases hb : b = 0xFF
    · rw [stuffed, if_pos hb] at h ⊢
      match k with
      | 0 => rfl
      | 1 => cases h
      | k + 2 => exact ih h
    · rw [stuffed, if_neg hb] at h ⊢
      match k with
      | 0 => exact absurd (Option.some.inj h) hb
      | k + 1 => exact ih h

theorem packBits_eq_stuffed (acc bits : List Bool) : ∃ bs : List Byte, (packBits acc bits).1 = bs.flatMap stuffed := by
  induction bits generalizing acc with
  | nil => exact ⟨[], rfl⟩
  | cons b bits ih =>
    unfold packBits
    split
    · obtain ⟨bs, hbs⟩ := ih []
      exact ⟨BitVec.ofNat 8 (natOfBits (acc ++ [b])) :: bs, by rw [hbs, List.flatMap_cons]⟩
    · exact ih _

/-- `t` has appended stuffed bytes to OUTMEM, or none. -/
def AppendsStuffed (s t : State) : Prop := ∃ bs : List Byte, Appended s t (bs.flatMap stuffed)

theorem AppendsStuffed.refl (s : State) : AppendsStuffed s s := ⟨[], Appended.refl s⟩

theorem AppendsStuffed.congr {s t u : State} (h : AppendsStuffed s t) (hout : u.outmem = t.outmem) (hwp : u.wp = t.wp) :
    AppendsStuffed s u := by
  obtain ⟨bs, hlen, hnew, hold⟩ := h
  refine ⟨bs, hwp ▸ hlen, fun k hk => ?_, fun a ha => ?_⟩
  · rw [outByte_congr hout]
    exact hnew k hk
  · rw [outByte_congr hout]
    exact hold a ha

theorem stuffed_of_appendsStuffed {lo : Nat} {s t : State} (happ : AppendsStuffed s t)
    (h : Stuffed s lo s.wp.toNat) : Stuffed t lo t.wp.toNat := by
  obtain ⟨bs, happ⟩ := happ
  obtain ⟨hwp, hnew, -⟩ := id happ
  intro a ha hlo hff
  rw [hwp] at ha ⊢
  by_cases hold : a < s.wp.toNat
  · rw [happ.outByte_below hold] at hff
    obtain ⟨hnext, hzero⟩ := h a hold hlo hff
    exact ⟨by omega, (happ.outByte_below hnext).trans hzero⟩
  · obtain ⟨k, rfl⟩ := Nat.exists_eq_add_of_le (Nat.not_lt.mp hold)
    have hzero := zero_after_ff_of_stuffed ((hnew k (by omega)).symm.trans (congrArg some hff))
    obtain ⟨hk, -⟩ := List.getElem?_eq_some_iff.mp hzero
    exact ⟨by omega, happ.outByte_at hzero⟩

/-! ### What a micro-operation appends -/

/-- Bits that were written to a clean writer have appended the bytes they complete. -/
theorem appendsStuffed_of_putBitList {bits : List Bool} {s t : State} (hclean : BitsClean s)
    (hwp : s.wp.toNat ≤ s.params.outBytes) (h : putBitList bits s = .done t) : AppendsStuffed s t := by
  have hlen := pendingBits_length_lt s
  rw [← withPending_pendingBits hclean] at h
  by_cases hroom : Room s (packedBytes s bits)
  · rw [putBitList_done bits _ s hlen hroom] at h
    cases h
    obtain ⟨bs, hbs⟩ := packBits_eq_stuffed (pendingBits s) bits
    refine ⟨bs, ?_⟩
    rw [← hbs]
    exact appended_appendList hroom
  · obtain ⟨x, hx⟩ := putBitList_raised bits _ s hlen hwp (Nat.not_le.mp hroom)
    rw [hx] at h
    cases h

theorem emitBytes_eq_done {bytes : List Byte} {s t : State} (hwp : s.wp.toNat ≤ s.params.outBytes)
    (h : emitBytes bytes s = .done t) : Appended s t bytes := by
  rw [emitBytes_spec bytes s hwp] at h
  split at h
  next hroom => cases h; exact appended_appendList hroom
  · cases h

theorem writerFrame_putBitList (bits : List Bool) (s : State) : WriterFrame s (putBitList bits s).endState := by
  induction bits generalizing s with
  | nil => exact .refl s
  | cons b bits ih => exact writerFrame_andThen (writerFrame_putBit b s) ih

/-- HDC's writes, and then its predictor. -/
theorem codeDc_eq_done {s t : State} (h : codeDc s = .done t) :
    ∃ u, putBitList (dcBits (tabOf s.bi) (dcDiff s)) s = .done u ∧ t = u.setPred (compOf s.bi) s.zblk[0] := by
  by_cases hcoded : cat (dcDiff s) ≤ 11
  · rw [codeDc_of_coded hcoded, andThen_eq_done] at h
    obtain ⟨u, hput, hpred⟩ := h
    cases hpred
    exact ⟨u, hput, rfl⟩
  · rw [codeDc_of_uncoded (Nat.not_le.mp hcoded)] at h
    cases h

theorem codeDc_appendsStuffed {s t : State} (hclean : BitsClean s) (hwp : s.wp.toNat ≤ s.params.outBytes)
    (h : codeDc s = .done t) : AppendsStuffed s t := by
  obtain ⟨u, hput, rfl⟩ := codeDc_eq_done h
  exact (appendsStuffed_of_putBitList hclean hwp hput).congr rfl rfl

theorem codeDc_keepsHeader {s t : State} (h : codeDc s = .done t) : KeepsHeader s t := by
  obtain ⟨u, hput, rfl⟩ := codeDc_eq_done h
  have hframe := writerFrame_putBitList (dcBits (tabOf s.bi) (dcDiff s)) s
  rw [hput] at hframe
  obtain ⟨hphase, hwidth, hheight, hqt⟩ := hframe.keepsHeader
  exact ⟨hphase, hwidth, hheight, hqt⟩

theorem codeAc_appendsStuffed {t : Fin 2} {vs : List Coef} {s u : State} (hclean : BitsClean s)
    (hwp : s.wp.toNat ≤ s.params.outBytes) (h : codeAc t vs 0 s = .done u) : AppendsStuffed s u := by
  by_cases hcoded : ∀ v ∈ vs, cat v.toInt ≤ 10
  · rw [codeAc_of_coded t vs 0 s hcoded] at h
    exact appendsStuffed_of_putBitList hclean hwp h
  · rw [codeAc_of_uncoded t vs 0 s (by simpa using hcoded), andThen_eq_done] at h
    obtain ⟨v, -, hraise⟩ := h
    cases hraise

theorem padBits_appendsStuffed {s t : State} (hclean : BitsClean s) (hwp : s.wp.toNat ≤ s.params.outBytes)
    (h : padBits s = .done t) : AppendsStuffed s t := by
  unfold padBits at h
  split at h
  · rw [putBits_eq_list] at h
    exact appendsStuffed_of_putBitList hclean hwp h
  · cases h
    exact .refl s

/-- QTGEN apart, a micro-operation from WSOI to WEOI writes nothing that the header is made of, and no STATE. -/
theorem instrBody_keepsHeader {i : Instr} {s t : State} (hlow : 3 ≤ rank i) (hhigh : rank i ≤ 21)
    (h : instrBody s i = .done t) : KeepsHeader s t := by
  have hwriter (hframe : WriterFrame s (instrBody s i).endState) : KeepsHeader s t := by
    rw [h] at hframe
    exact hframe.keepsHeader
  cases i
  case hdc => exact codeDc_keepsHeader h
  case hac => exact hwriter (writerFrame_codeAc _ _ 0 s)
  case flush => exact hwriter (writerFrame_padBits s)
  case csc | blkld | fdct | quant | zz => cases h; exact ⟨rfl, rfl, rfl, rfl⟩
  case wsoi | wapp0 | wdqt0 | wdqt1 | wsof0 | wdht0 | wdht1 | wdht2 | wdht3 | wsos | weoi =>
    exact hwriter (writerFrame_emitBytes _ s)
  case nop | start | chk | init | qtgen => exact absurd hlow (by decide)
  case fin => exact absurd hhigh (by decide)

/-- The length field of the AC table segments (spec/30_encoding.md R101): 19 + 162 is 0x00B5. -/
theorem dhtBytes_ac_zero :
    dhtBytes .ac 0 = ([0xFF, 0xC4, 0x00, 0xB5, 0x10] : List Byte) ++ acSpec0.bits.map (BitVec.ofNat 8) ++
      acSpec0.vals.map (BitVec.ofNat 8) := by
  simp only [dhtBytes, huffSpec, if_true, acSpec0_lengths]
  rfl

theorem dhtBytes_ac_one :
    dhtBytes .ac 1 = ([0xFF, 0xC4, 0x00, 0xB5, 0x11] : List Byte) ++ acSpec1.bits.map (BitVec.ofNat 8) ++
      acSpec1.vals.map (BitVec.ofNat 8) := by
  have hone : ¬ (1 : Fin 2) = 0 := by decide
  simp only [dhtBytes, huffSpec, if_neg hone, acSpec1_lengths]
  rfl

/-- The marker micro-operations emit their segments (spec/47_bitstream.md R250 to R260). -/
theorem instrBody_of_segment {i : Instr} {s : State} {bytes : List Byte} (h : segmentBytes s i = some bytes) :
    instrBody s i = emitBytes bytes s := by
  cases i <;> cases h
  case wdht1 => rw [instrBody, dhtBytes_ac_zero]
  case wdht3 => rw [instrBody, dhtBytes_ac_one]
  all_goals rfl

theorem segmentBytes_of_mem_headerInstrs {i : Instr} (h : i ∈ headerInstrs) (s : State) :
    segmentBytes s i = some (segmentOf s i) := by
  cases i
  case wsoi | wapp0 | wdqt0 | wdqt1 | wsof0 | wdht0 | wdht1 | wdht2 | wdht3 | wsos => rfl
  all_goals exact absurd h (by decide)

/-- The micro-operations of an MCU, and FLUSH, append stuffed bytes or none. -/
theorem instrBody_appendsStuffed {i : Instr} {s t : State} (hlow : 13 ≤ rank i) (hhigh : rank i ≤ 20)
    (hclean : BitsClean s) (hwp : s.wp.toNat ≤ s.params.outBytes) (h : instrBody s i = .done t) :
    AppendsStuffed s t := by
  cases i
  case csc | blkld | fdct | quant | zz => cases h; exact (AppendsStuffed.refl s).congr rfl rfl
  case hdc => exact codeDc_appendsStuffed hclean hwp h
  case hac => exact codeAc_appendsStuffed hclean hwp h
  case flush => exact padBits_appendsStuffed hclean hwp h
  case weoi | fin => exact absurd hhigh (by decide)
  all_goals exact absurd hlow (by decide)

/-! ### The file at each micro-operation -/

/-- What `FileInv` asks of the file when `i` is the next micro-operation. -/
abbrev FileStage (i : Instr) (s : State) : Prop :=
  (3 ≤ rank i → HeaderOk (headerOffset i) s) ∧
  (2 ≤ rank i → rank i ≤ 12 → s.wp.toNat = headerOffset i) ∧
  (13 ≤ rank i → rank i ≤ 21 → 623 ≤ s.wp.toNat ∧ Stuffed s 623 s.wp.toNat) ∧
  (i = .fin → FileOk s)

theorem headerOffset_of_scan {i : Instr} (h : 13 ≤ rank i) : headerOffset i = 623 := by
  revert h
  cases i <;> decide

/-- Before CHK and INIT have run nothing is asked of the file. -/
theorem fileStage_of_rank_le_one {i : Instr} (h : rank i ≤ 1) (s : State) : FileStage i s := by
  refine ⟨fun _ => by omega, fun _ => by omega, fun _ => by omega, ?_⟩
  rintro rfl
  exact absurd h (by decide)

/-- While the header is being written, and at the first CSC, WP is where the header has got to. -/
theorem fileStage_of_header {i : Instr} {s : State} (h : rank i ≤ 13) (hheader : HeaderOk (headerOffset i) s)
    (hwp : s.wp.toNat = headerOffset i) : FileStage i s := by
  refine ⟨fun _ => hheader, fun _ _ => hwp, fun hscan _ => ?_, ?_⟩
  · rw [headerOffset_of_scan hscan] at hwp
    exact ⟨Nat.le_of_eq hwp.symm, fun a ha hlo => by omega⟩
  · rintro rfl
    exact absurd h (by decide)

/-- From the first CSC to WEOI the header is complete and what follows it is stuffed. -/
theorem fileStage_of_scan {i : Instr} {s : State} (hlow : 13 ≤ rank i) (hhigh : rank i ≤ 21) (hheader : HeaderOk 623 s)
    (hwp : 623 ≤ s.wp.toNat) (hstuffed : Stuffed s 623 s.wp.toNat) : FileStage i s := by
  refine ⟨fun _ => headerOffset_of_scan hlow ▸ hheader, fun _ _ => by omega, fun _ _ => ⟨hwp, hstuffed⟩, ?_⟩
  rintro rfl
  exact absurd hhigh (by decide)

theorem headerBytes_soi (s : State) : (headerBytes s)[0]? = some 0xFF ∧ (headerBytes s)[1]? = some 0xD8 := ⟨rfl, rfl⟩

/-- EOI after a complete header and a stuffed segment makes the file complete (spec/47_bitstream.md R260, R261). -/
theorem fileOk_of_eoi {s t : State} (hkeep : KeepsHeader s t) (happ : Appended s t [0xFF, 0xD9])
    (hheader : HeaderOk 623 s) (hwp : 623 ≤ s.wp.toNat) (hstuffed : Stuffed s 623 s.wp.toNat) : FileOk t := by
  have hheader' : HeaderOk 623 t := headerOk_of_appended hkeep happ hwp hheader
  have hend : t.wp.toNat = s.wp.toNat + 2 := happ.1
  obtain ⟨hff, hd8⟩ := headerBytes_soi t
  have hbefore : t.wp.toNat - 2 = s.wp.toNat := by omega
  have hlast : t.wp.toNat - 1 = s.wp.toNat + 1 := by omega
  refine ⟨by omega, Option.some.inj ((hheader' 0 (by decide)).trans hff),
    Option.some.inj ((hheader' 1 (by decide)).trans hd8), ?_, ?_, ?_⟩
  · rw [hbefore]
    intro a ha hlo hbyte
    rw [happ.outByte_below ha] at hbyte
    obtain ⟨hnext, hzero⟩ := hstuffed a ha hlo hbyte
    exact ⟨hnext, (happ.outByte_below hnext).trans hzero⟩
  · rw [hbefore]
    exact happ.outByte_at (k := 0) rfl
  · rw [hlast]
    exact happ.outByte_at (k := 1) rfl

/-! ### From one micro-operation to the next -/

/-- `j` is in a row of spec/40_driver.md R134 for `i`. -/
def Follows (i j : Instr) : Prop :=
  nextInOrder i = some j ∨ i = .hac ∧ (j = .blkld ∨ j = .csc ∨ j = .flush)

theorem Follows.rank_scan {i j : Instr} (h : Follows i j) (hlow : 13 ≤ rank i) (hhigh : rank i ≤ 20) :
    13 ≤ rank j ∧ rank j ≤ 21 := by
  rcases h with hnext | ⟨-, rfl | rfl | rfl⟩
  · revert hlow hhigh
    cases i <;> cases hnext <;> decide
  all_goals decide

theorem Follows.next {i j : Instr} (h : Follows i j) (hi : i ≠ .hac) : nextInOrder i = some j :=
  h.resolve_right fun ⟨hhac, _⟩ => hi hhac

theorem rank_le_of_header {i j : Instr} (hi : i ∈ headerInstrs) (h : nextInOrder i = some j) : rank j ≤ 13 := by
  revert hi
  cases i <;> cases h <;> decide

/-- SEQ advances along the rows of R134; FIN and the commands have none. -/
theorem advance_follows {i : Instr} {s t : State} (hnop : i ≠ .nop) (hstart : i ≠ .start) (hfin : i ≠ .fin)
    (h : advance i s = .next t) : ∃ j, Follows i j ∧ decodeUop t.uop = .ok j := by
  cases i with
  | nop => exact absurd rfl hnop
  | start => exact absurd rfl hstart
  | fin => exact absurd rfl hfin
  | hac =>
    simp only [advance, advanceHac] at h
    split at h
    · cases h; exact ⟨.blkld, .inr ⟨rfl, .inl rfl⟩, rfl⟩
    split at h
    · cases h; exact ⟨.csc, .inr ⟨rfl, .inr (.inl rfl)⟩, rfl⟩
    split at h
    · cases h; exact ⟨.csc, .inr ⟨rfl, .inr (.inl rfl)⟩, rfl⟩
    split at h
    · cases h; exact ⟨.flush, .inr ⟨rfl, .inr (.inr rfl)⟩, rfl⟩
    · cases h
  | _ => cases h; exact ⟨_, .inl rfl, rfl⟩

section
variable {i j : Instr} {s t : State}

/-- A header segment that has been written takes WP and the header to the next one's offset. -/
theorem fileStage_header_next (hi : i ∈ headerInstrs) (hlow : 3 ≤ rank i) (hhigh : rank i ≤ 12)
    (hwp : s.wp.toNat ≤ s.params.outBytes) (hstage : FileStage i s) (hbody : instrBody s i = .done t)
    (hj : nextInOrder i = some j) : FileStage j t := by
  obtain ⟨hheader, hat, -, -⟩ := hstage
  have hkeep : KeepsHeader s t := instrBody_keepsHeader hlow (by omega) hbody
  rw [instrBody_of_segment (segmentBytes_of_mem_headerInstrs hi s)] at hbody
  have happ : Appended s t (segmentOf s i) := emitBytes_eq_done hwp hbody
  have hoff : headerOffset i + (segmentOf s i).length = headerOffset j := by
    rw [length_segmentOf s hi, headerOffset_add_segmentLength hi hj]
  refine fileStage_of_header (rank_le_of_header hi hj) ?_ ?_
  · exact hoff ▸ headerOk_of_segment hi hkeep happ (hat (by omega) hhigh) (hheader hlow)
  · rw [happ.1, hat (by omega) hhigh, hoff]

theorem fileStage_scan_next (hlow : 13 ≤ rank i) (hhigh : rank i ≤ 20) (hclean : BitsClean s)
    (hwp : s.wp.toNat ≤ s.params.outBytes) (hstage : FileStage i s) (hbody : instrBody s i = .done t)
    (hj : Follows i j) : FileStage j t := by
  obtain ⟨hheader, -, hscan, -⟩ := hstage
  obtain ⟨hpast, hstuffed⟩ := hscan hlow (by omega)
  obtain ⟨hlow', hhigh'⟩ := hj.rank_scan hlow hhigh
  have hkeep : KeepsHeader s t := instrBody_keepsHeader (by omega) (by omega) hbody
  have happ : AppendsStuffed s t := instrBody_appendsStuffed hlow hhigh hclean hwp hbody
  obtain ⟨bs, hbytes⟩ := id happ
  have hheader' : HeaderOk 623 s := headerOffset_of_scan hlow ▸ hheader (by omega)
  exact fileStage_of_scan hlow' hhigh' (headerOk_of_appended hkeep hbytes hpast hheader')
    (hbytes.1 ▸ Nat.le_add_right_of_le hpast) (stuffed_of_appendsStuffed happ hstuffed)

theorem fileStage_fin_of_weoi (hwp : s.wp.toNat ≤ s.params.outBytes) (hstage : FileStage .weoi s)
    (hbody : instrBody s .weoi = .done t) : FileStage .fin t := by
  obtain ⟨hheader, -, hscan, -⟩ := hstage
  obtain ⟨hpast, hstuffed⟩ := hscan (by decide) (by decide)
  have hkeep : KeepsHeader s t := instrBody_keepsHeader (by decide) (by decide) hbody
  have happ : Appended s t [0xFF, 0xD9] := emitBytes_eq_done hwp hbody
  have hheader' : HeaderOk 623 s := hheader (by decide)
  exact ⟨fun _ => headerOk_of_appended hkeep happ hpast hheader', fun _ h => absurd h (by decide),
    fun _ h => absurd h (by decide), fun _ => fileOk_of_eoi hkeep happ hheader' hpast hstuffed⟩

/-- A micro-operation that completes leaves the file as the next one needs it. -/
theorem fileStage_next (hclean : 2 ≤ rank i → BitsClean s) (hwp : s.wp.toNat ≤ s.params.outBytes)
    (hstage : FileStage i s) (hbody : instrBody s i = .done t) (hj : Follows i j) : FileStage j t := by
  cases i
  case wsoi | wapp0 | wdqt0 | wdqt1 | wsof0 | wdht0 | wdht1 | wdht2 | wdht3 | wsos =>
    exact fileStage_header_next (by decide) (by decide) (by decide) hwp hstage hbody (hj.next (by decide))
  case csc | blkld | fdct | quant | zz | hdc | hac | flush =>
    exact fileStage_scan_next (by decide) (by decide) (hclean (by decide)) hwp hstage hbody hj
  case weoi =>
    cases hj.next (by decide)
    exact fileStage_fin_of_weoi hwp hstage hbody
  case chk =>
    cases hj.next (by decide)
    exact fileStage_of_rank_le_one (by decide) t
  case init =>
    cases hj.next (by decide)
    cases hbody
    exact fileStage_of_header (by decide) (fun k hk => absurd hk (Nat.not_lt_zero k)) rfl
  case qtgen =>
    cases hj.next (by decide)
    cases hbody
    obtain ⟨-, hat, -, -⟩ := hstage
    exact fileStage_of_header (by decide) (fun k hk => absurd hk (Nat.not_lt_zero k)) (hat (by decide) (by decide))
  case nop | start | fin => cases hj.next (by decide)

/-- STATE is written by the commands and by FIN, and by no other instruction that completes. -/
theorem instrBody_phase (hnop : i ≠ .nop) (hstart : i ≠ .start) (hfin : i ≠ .fin) (h : instrBody s i = .done t) :
    t.phase = s.phase := by
  by_cases hlow : 3 ≤ rank i
  · have hhigh : rank i ≤ 21 := by
      revert hfin
      cases i <;> decide
    exact (instrBody_keepsHeader hlow hhigh h).phase
  cases i
  case chk =>
    have hend := checkArguments_endState s
    rw [show checkArguments s = .done t from h, endState_done] at hend
    rw [hend]
  case init | qtgen => cases h; rfl
  case nop => exact absurd rfl hnop
  case start => exact absurd rfl hstart
  all_goals exact absurd (by decide) hlow
end

/-! ### What leaves the file alone -/

section
variable {s t : State}

theorem running_congr (hphase : t.phase = s.phase) (huop : t.uop = s.uop) : running t = running s := by
  rw [running, running, hphase, huop]

theorem fileOk_congr (hout : t.outmem = s.outmem) (hwp : t.wp = s.wp) (h : FileOk s) : FileOk t := by
  simp only [FileOk, Stuffed, outByte_congr hout, hwp]
  exact h

theorem fileStage_congr {i : Instr} (hout : t.outmem = s.outmem) (hwp : t.wp = s.wp)
    (hheader : headerBytes t = headerBytes s) (h : FileStage i s) : FileStage i t := by
  obtain ⟨hwritten, hat, hscan, hfin⟩ := h
  refine ⟨?_, hwp ▸ hat, ?_, fun hi => fileOk_congr hout hwp (hfin hi)⟩
  · simp only [HeaderOk, outByte_congr hout, hheader]
    exact hwritten
  · simp only [Stuffed, outByte_congr hout, hwp]
    exact hscan

/-- The invariant of the file reads STATE, SEQ.UOP, OUTMEM and WP, and while BUSY what the header is made of. -/
theorem fileInv_congr (hphase : t.phase = s.phase) (huop : t.uop = s.uop) (hout : t.outmem = s.outmem)
    (hwp : t.wp = s.wp) (hheader : s.phase = .busy → headerBytes t = headerBytes s) (h : FileInv s) : FileInv t := by
  obtain ⟨hstage, hdone⟩ := h
  refine ⟨fun i hi => ?_, fun hd => fileOk_congr hout hwp (hdone (hphase ▸ hd))⟩
  rw [running_congr hphase huop] at hi
  exact fileStage_congr hout hwp (hheader (running_eq_some_iff.mp hi).1) (hstage i hi)

theorem fileInv_of_running {i : Instr} (hi : running t = some i) (hstage : FileStage i t) : FileInv t := by
  obtain ⟨hbusy, -⟩ := running_eq_some_iff.mp hi
  refine ⟨fun j hj => ?_, fun hd => by rw [hbusy] at hd; cases hd⟩
  cases hi.symm.trans hj
  exact hstage

theorem fileInv_hostRegWrite (off : BitVec 12) (v : Word) (h : FileInv s) : FileInv (hostRegWrite off v s) := by
  by_cases hbusy : s.phase = .busy
  · rwa [hostRegWrite_of_busy hbusy]
  · rw [hostRegWrite_of_not_busy hbusy]
    unfold writeConfig
    repeat' split
    all_goals exact fileInv_congr (s := s) rfl rfl rfl rfl (absurd · hbusy) h

theorem fileInv_hostPixWrite (a : Nat) (b : Byte) (h : FileInv s) : FileInv (hostPixWrite a b s) := by
  unfold hostPixWrite
  split
  · exact fileInv_congr rfl rfl rfl rfl (fun _ => rfl) h
  · exact h

theorem fileInv_returnToHost (r : HostReturn) (h : FileInv s) : FileInv (returnToHost r s) :=
  fileInv_congr rfl rfl rfl rfl (fun _ => rfl) h

theorem fileInv_refuseCommand (h : FileInv s) : FileInv (refuseCommand s) :=
  fileInv_congr rfl rfl rfl rfl (fun _ => rfl) h

theorem fileInv_acceptStart (s : State) : FileInv (acceptStart s) :=
  fileInv_of_running (i := .chk) rfl (fileStage_of_rank_le_one (by decide) _)

theorem fileInv_assertReset (s : State) : FileInv (assertReset s) :=
  fileInv_of_phase_ne_busy_of_ne_done (by simp) (by simp)

theorem fileInv_of_settle {e : Event} (he : e ≠ .core) (h : eventAction e s = .settle t) (hfile : FileInv s) :
    FileInv t := by
  cases e with
  | core => exact absurd rfl he
  | regWrite off v =>
    rw [eventAction] at h
    split at h
    · rcases commandAction_cases v s with hrefuse | ⟨i, -, hrun⟩
      · rw [hrefuse] at h; cases h; exact fileInv_refuseCommand hfile
      · rw [hrun] at h; cases h
    · cases h; exact fileInv_hostRegWrite off v hfile
  | regRead off | pixRead a | outRead a => cases h; exact fileInv_returnToHost _ hfile
  | pixWrite a b => cases h; exact fileInv_hostPixWrite a b hfile
  | reset => cases h; exact fileInv_assertReset s

theorem fileInv_of_command {i : Instr} (hi : i = .nop ∨ i = .start) (h : exec i s = .next t) (hfile : FileInv s) :
    FileInv t := by
  rcases hi with rfl | rfl
  · cases h
    exact hfile
  · change execStart s = .next t at h
    unfold execStart at h
    split at h
    · cases h; exact fileInv_refuseCommand hfile
    · cases h; exact fileInv_acceptStart s

/-- A CORE step, from the state in which the micro-operation `i` is next. -/
theorem fileInv_of_exec {i : Instr} (hclean : 2 ≤ rank i → BitsClean s) (hwp : s.wp.toNat ≤ s.params.outBytes)
    (hi : running s = some i) (hfile : FileInv s) (h : exec i s = .next t) : FileInv t := by
  by_cases hcommand : i = .nop ∨ i = .start
  · exact fileInv_of_command hcommand h hfile
  obtain ⟨hnop, hstart⟩ := not_or.mp hcommand
  obtain ⟨hbusy, -⟩ := running_eq_some_iff.mp hi
  obtain ⟨hstages, -⟩ := id hfile
  have hstage : FileStage i s := hstages i hi
  have hfinish := finish_of_exec_next h
  cases hbody : instrBody s i with
  | raised c e u =>
    rw [hbody] at hfinish
    cases hfinish
    exact fileInv_of_phase_ne_busy_of_ne_done (by simp) (by simp)
  | done u =>
    rw [hbody, finish_done] at hfinish
    by_cases hfin : i = .fin
    · subst hfin
      cases hbody
      cases hfinish
      obtain ⟨-, -, -, hcomplete⟩ := hstage
      exact ⟨by simp [running, commit], fun _ => fileOk_congr rfl rfl (hcomplete rfl)⟩
    · obtain ⟨j, hj, hdecode⟩ := advance_follows hnop hstart hfin hfinish
      have hframe := advance_frame hfinish
      have hphase : t.phase = .busy := by
        rw [hframe]
        exact (instrBody_phase hnop hstart hfin hbody).trans hbusy
      refine fileInv_of_running (running_eq_some_iff.mpr ⟨hphase, hdecode⟩) ?_
      have hnext : FileStage j u := fileStage_next hclean hwp hstage hbody hj
      rw [hframe]
      exact fileStage_congr rfl rfl rfl hnext
end

/-- Settles O53: the micro-operations by what they append, the host's accesses by what they leave alone. -/
theorem stepKeepsTheFileInvariant : Obligations.StepKeepsTheFileInvariant := by
  intro s t hinv hfile h
  have htaken (rest : List Event) : FileInv { s with sched := rest } :=
    fileInv_congr rfl rfl rfl rfl (fun _ => rfl) hfile
  obtain ⟨-, -, -, -, hwp, -, -, hruns, hstages⟩ := hinv
  by_cases hcore : CoreMoves s
  · by_cases hbusy : s.phase = .busy
    · obtain ⟨i, hi⟩ := Option.isSome_iff_exists.mp (hruns hbusy)
      rw [step_of_running hcore hi] at h
      have hclean : 2 ≤ rank i → BitsClean (coreState s) := fun hrank => by
        obtain ⟨-, hscan, -⟩ := hstages i hi
        obtain ⟨-, -, hclean⟩ := hscan hrank
        exact hclean
      exact fileInv_of_exec (s := coreState s) hclean hwp hi (htaken _) h
    · rw [step_of_coreMoves_of_not_busy hcore hbusy] at h
      cases h
      exact htaken _
  · obtain ⟨e, rest, hs, he⟩ := pending_of_not_coreMoves hcore
    have haction := nextAction_of_pending hs
    rcases eventAction_cases he { s with sched := rest } with ⟨u, hsettle⟩ | ⟨i, hi, hrun⟩
    · rw [step_settle (haction.trans hsettle)] at h
      cases h
      exact fileInv_of_settle he hsettle (htaken rest)
    · rw [step_run (haction.trans hrun)] at h
      exact fileInv_of_command hi h (htaken rest)

end Sys2Proof.Machine
end

section
/-! The colour transform: the ranges of its sums and samples, the pixels that it reads, and the MCU that CSC computes
(spec/41_color.md). -/

namespace Sys2Proof.Machine

/-! ### Sums and samples (spec/41_color.md R161 to R164) -/

/-- Eight bits are left of a sum below `256 * 2^n`. -/
theorem asr_mem_byte {v : Int} {n : Nat} (hlow : 0 ≤ v) (hhigh : v < 256 * 2 ^ n) : 0 ≤ asr v n ∧ asr v n ≤ 255 := by
  have hpos : (0 : Int) < 2 ^ n := Int.pow_pos (by decide)
  have hlt : asr v n < 256 := Int.ediv_lt_of_lt_mul hpos hhigh
  exact ⟨Int.ediv_nonneg hlow (Int.le_of_lt hpos), by omega⟩

theorem toByte_toNat {v : Int} (h : 0 ≤ v ∧ v ≤ 255) : ((toByte v).toNat : Int) = v := by
  rw [toByte, BitVec.toNat_ofInt]
  omega

section
variable {r g b : Int}

/-- The weights of R161 add up to `2^16`. -/
theorem lumaSum_bounds (hr : 0 ≤ r ∧ r ≤ 255) (hg : 0 ≤ g ∧ g ≤ 255) (hb : 0 ≤ b ∧ b ≤ 255) :
    0 ≤ 19595 * r + 38470 * g + 7471 * b + 32768 ∧ 19595 * r + 38470 * g + 7471 * b + 32768 < 256 * 2 ^ 16 := by
  omega

/-- The weights of R162 of either sign add up to `2^15`, for sums of four channels. -/
theorem cbSum_bounds (hr : 0 ≤ r ∧ r ≤ 1020) (hg : 0 ≤ g ∧ g ≤ 1020) (hb : 0 ≤ b ∧ b ≤ 1020) :
    0 ≤ -11059 * r - 21709 * g + 32768 * b + 33554432 + 131071 ∧
      -11059 * r - 21709 * g + 32768 * b + 33554432 + 131071 < 256 * 2 ^ 18 := by
  omega

/-- The weights of R163 of either sign add up to `2^15`, for sums of four channels. -/
theorem crSum_bounds (hr : 0 ≤ r ∧ r ≤ 1020) (hg : 0 ≤ g ∧ g ≤ 1020) (hb : 0 ≤ b ∧ b ≤ 1020) :
    0 ≤ 32768 * r - 27439 * g - 5329 * b + 33554432 + 131071 ∧
      32768 * r - 27439 * g - 5329 * b + 33554432 + 131071 < 256 * 2 ^ 18 := by
  omega

theorem lumaOf_mem_byte (hr : 0 ≤ r ∧ r ≤ 255) (hg : 0 ≤ g ∧ g ≤ 255) (hb : 0 ≤ b ∧ b ≤ 255) :
    0 ≤ lumaOf r g b ∧ lumaOf r g b ≤ 255 :=
  have ⟨hlow, hhigh⟩ := lumaSum_bounds hr hg hb
  asr_mem_byte hlow hhigh

theorem cbOf_mem_byte (hr : 0 ≤ r ∧ r ≤ 1020) (hg : 0 ≤ g ∧ g ≤ 1020) (hb : 0 ≤ b ∧ b ≤ 1020) :
    0 ≤ cbOf r g b ∧ cbOf r g b ≤ 255 :=
  have ⟨hlow, hhigh⟩ := cbSum_bounds hr hg hb
  asr_mem_byte hlow hhigh

theorem crOf_mem_byte (hr : 0 ≤ r ∧ r ≤ 1020) (hg : 0 ≤ g ∧ g ≤ 1020) (hb : 0 ≤ b ∧ b ≤ 1020) :
    0 ≤ crOf r g b ∧ crOf r g b ≤ 255 :=
  have ⟨hlow, hhigh⟩ := crSum_bounds hr hg hb
  asr_mem_byte hlow hhigh
end

theorem lumaOf_grey (g : Int) : lumaOf g g g = g := by
  rw [lumaOf, asr]
  omega

theorem cbOf_grey (g : Int) : cbOf g g g = 128 := by
  rw [cbOf, asr]
  omega

theorem crOf_grey (g : Int) : crOf g g g = 128 := by
  rw [crOf, asr]
  omega

/-! ### The pixels that a sample reads (spec/20_memory.md R68, spec/41_color.md R166) -/

theorem pixelChannel_eq (s : State) (x y ch : Nat) :
    pixelChannel s x y ch = ((pixByte s (pixAddr s x y + ch)).toNat : Int) := rfl

theorem pixelChannel_mem_byte (s : State) (x y ch : Nat) : 0 ≤ pixelChannel s x y ch ∧ pixelChannel s x y ch ≤ 255 := by
  rw [pixelChannel_eq]
  omega

/-- A sum adds four channels, each a byte. -/
theorem channelSum_bounds (s : State) (cx cy ch : Nat) : 0 ≤ channelSum s cx cy ch ∧ channelSum s cx cy ch ≤ 1020 := by
  simp only [channelSum, pixelChannel_eq]
  omega

/-- The sums of `chromaSums` are those of the statements, channel by channel. -/
theorem chromaSums_eq_channelSum (s : State) (cx cy : Nat) :
    ((chromaSums s cx cy).sr : Int) = channelSum s cx cy 0 ∧ ((chromaSums s cx cy).sg : Int) = channelSum s cx cy 1 ∧
      ((chromaSums s cx cy).sb : Int) = channelSum s cx cy 2 := ⟨rfl, rfl, rfl⟩

theorem ySamp_toNat (s : State) (x y : Nat) :
    ((ySamp s x y).toNat : Int) = lumaOf (pixelChannel s x y 0) (pixelChannel s x y 1) (pixelChannel s x y 2) :=
  toByte_toNat <|
    lumaOf_mem_byte (pixelChannel_mem_byte s x y 0) (pixelChannel_mem_byte s x y 1) (pixelChannel_mem_byte s x y 2)

theorem cbSamp_toNat (s : State) (cx cy : Nat) :
    ((cbSamp s cx cy).toNat : Int) = cbOf (channelSum s cx cy 0) (channelSum s cx cy 1) (channelSum s cx cy 2) := by
  obtain ⟨hr, hg, hb⟩ := chromaSums_eq_channelSum s cx cy
  rw [cbSamp, hr, hg, hb]
  exact toByte_toNat <|
    cbOf_mem_byte (channelSum_bounds s cx cy 0) (channelSum_bounds s cx cy 1) (channelSum_bounds s cx cy 2)

theorem crSamp_toNat (s : State) (cx cy : Nat) :
    ((crSamp s cx cy).toNat : Int) = crOf (channelSum s cx cy 0) (channelSum s cx cy 1) (channelSum s cx cy 2) := by
  obtain ⟨hr, hg, hb⟩ := chromaSums_eq_channelSum s cx cy
  rw [crSamp, hr, hg, hb]
  exact toByte_toNat <|
    crOf_mem_byte (channelSum_bounds s cx cy 0) (channelSum_bounds s cx cy 1) (channelSum_bounds s cx cy 2)

/-- PixFetch reads no byte whose address is 3 modulo 4: a pixel begins at a multiple of 4 and alpha is its last byte. -/
theorem pixFetch_congr {s t : State} (hwidth : t.width = s.width) (hheight : t.height = s.height)
    (hcolour : ∀ a, a % 4 ≠ 3 → pixByte t a = pixByte s a) (x y : Nat) : pixFetch t x y = pixFetch s x y := by
  have haddr : pixAddr t x y = pixAddr s x y := by simp only [pixAddr, hwidth, hheight]
  have hstart : pixAddr s x y % 4 = 0 := Nat.mul_mod_left _ 4
  simp only [pixFetch, haddr, Rgb.mk.injEq]
  exact ⟨hcolour _ (by omega), hcolour _ (by omega), hcolour _ (by omega)⟩

/-! ### The MCU (spec/41_color.md R165) -/

theorem convertMcu_y (s : State) (j i : Fin 16) :
    (convertMcu s).y[j][i] = ySamp s (16 * s.mx.toNat + i.val) (16 * s.my.toNat + j.val) := by
  simp [convertMcu]

theorem convertMcu_cb (s : State) (j i : Fin 8) :
    (convertMcu s).cb[j][i] = cbSamp s (8 * s.mx.toNat + i.val) (8 * s.my.toNat + j.val) := by
  simp [convertMcu]

theorem convertMcu_cr (s : State) (j i : Fin 8) :
    (convertMcu s).cr[j][i] = crSamp s (8 * s.mx.toNat + i.val) (8 * s.my.toNat + j.val) := by
  simp [convertMcu]

/-- The MCU depends on the geometry, on the place of the MCU and on what PixFetch returns. -/
theorem convertMcu_congr {s t : State} (hwidth : t.width = s.width) (hheight : t.height = s.height) (hmx : t.mx = s.mx)
    (hmy : t.my = s.my) (hfetch : ∀ x y, pixFetch t x y = pixFetch s x y) : convertMcu t = convertMcu s := by
  simp only [convertMcu, ySamp, cbSamp, crSamp, chromaSums, chromaW, chromaH, hwidth, hheight, hmx, hmy, hfetch]

/-! ### CSC (spec/41_color.md R165) -/

theorem exec_csc_eq {s : State} (h : ¬ FetchOutside s) :
    exec .csc s = .next { s with mcu := convertMcu s, uop := 0x21, bi := 0 } := exec_csc_of_inside h

/-- PIXMEM holds every pixel of an image that is not empty and fits. -/
theorem not_fetchOutside_of_fits {s : State} (hw : s.width ≠ 0) (hh : s.height ≠ 0)
    (hfit : bytesNeeded s ≤ s.params.pixBytes) : ¬ FetchOutside s := by
  rintro (hw0 | hh0 | hout)
  · exact hw hw0
  · exact hh hh0
  · have := pixAddr_add_four_le hw hh (16 * s.mx.toNat + 15) (16 * s.my.toNat + 15)
    omega

theorem not_fetchOutside_of_exec {s t : State} (h : exec .csc s = .next t) : ¬ FetchOutside s := fun hout => by
  rw [exec_csc_of_outside hout] at h
  cases h

/-! ### The obligations -/

/-- Settles O21: nothing is clamped, so each stored byte is the integer that the formula of its plane gives. -/
theorem cscConvertsTheMcu : Obligations.CscConvertsTheMcu := by
  intro s hw hh hfit
  refine ⟨_, exec_csc_eq (not_fetchOutside_of_fits hw hh hfit), rfl, fun j i => ?_, fun j i => ⟨?_, ?_⟩⟩
  · rw [convertMcu_y]
    exact ySamp_toNat s _ _
  · rw [convertMcu_cb]
    exact cbSamp_toNat s _ _
  · rw [convertMcu_cr]
    exact crSamp_toNat s _ _

/-- Settles O23: alpha bytes stand at addresses 3 modulo 4, and PixFetch reads the other three. -/
theorem alphaHasNoInfluence : Obligations.AlphaHasNoInfluence := by
  intro s s' m hcolour h
  have hinside : ¬ FetchOutside s := not_fetchOutside_of_exec h
  have hmcu : convertMcu { s with pixmem := m } = convertMcu s :=
    convertMcu_congr rfl rfl rfl rfl (pixFetch_congr rfl rfl hcolour)
  rw [exec_csc_eq hinside] at h
  cases h
  rw [exec_csc_eq (s := { s with pixmem := m }) hinside, hmcu]

/-- Settles O22: the sums lie below `256 * 2^n` for the shift by `n` that follows, and for grey the weights cancel. -/
theorem colourSamplesNeedNoClamp : Obligations.ColourSamplesNeedNoClamp := by
  refine ⟨fun r g b hr0 hr hg0 hg hb0 hb => ?_, fun r g b hr0 hr hg0 hg hb0 hb => ?_, fun g _ _ => ?_⟩
  · obtain ⟨hlow, hhigh⟩ := lumaOf_mem_byte ⟨hr0, hr⟩ ⟨hg0, hg⟩ ⟨hb0, hb⟩
    obtain ⟨hsum0, hsum⟩ := lumaSum_bounds ⟨hr0, hr⟩ ⟨hg0, hg⟩ ⟨hb0, hb⟩
    exact ⟨hlow, hhigh, hsum0, Int.lt_trans hsum (by decide)⟩
  · obtain ⟨hcb0, hcb⟩ := cbOf_mem_byte ⟨hr0, hr⟩ ⟨hg0, hg⟩ ⟨hb0, hb⟩
    obtain ⟨hcr0, hcr⟩ := crOf_mem_byte ⟨hr0, hr⟩ ⟨hg0, hg⟩ ⟨hb0, hb⟩
    obtain ⟨hcbSum0, hcbSum⟩ := cbSum_bounds ⟨hr0, hr⟩ ⟨hg0, hg⟩ ⟨hb0, hb⟩
    obtain ⟨hcrSum0, hcrSum⟩ := crSum_bounds ⟨hr0, hr⟩ ⟨hg0, hg⟩ ⟨hb0, hb⟩
    exact ⟨hcb0, hcb, hcr0, hcr, hcbSum0, Int.lt_trans hcbSum (by decide), hcrSum0, Int.lt_trans hcrSum (by decide)⟩
  · exact ⟨lumaOf_grey g, cbOf_grey _, crOf_grey _⟩

end Sys2Proof.Machine
end

section
/-! The block splitter: the places of a block's samples in SBLK, the planes of MCUBUF that they come from, and BLKLD
(spec/42_block_splitter.md). -/

namespace Sys2Proof.Machine

/-! ### Natural order (spec/00_scope.md R5) -/

@[simp] theorem rowOf_natIndex (y x : Fin 8) : rowOf (natIndex y x) = y :=
  Fin.ext (show (8 * y.val + x.val) / 8 = y.val by omega)

@[simp] theorem colOf_natIndex (y x : Fin 8) : colOf (natIndex y x) = x :=
  Fin.ext (show (8 * y.val + x.val) % 8 = x.val by omega)

theorem loadBlock_natIndex (m : McuBuf) (bi : Fin 6) (y x : Fin 8) :
    (loadBlock m bi)[natIndex y x] = mcuSample m bi y x := by
  rw [loadBlock, Fin.getElem_fin, Vector.getElem_ofFn, Fin.eta, rowOf_natIndex, colOf_natIndex]

/-! ### The planes of a block (spec/42_block_splitter.md R175) -/

/-- The rows of R175 in one formula: bit 0 of a luma block's number picks the half of the columns, bit 1 the half of the
rows, and the chroma planes are one block each. -/
theorem mcuSample_eq (m : McuBuf) (bi : Fin 6) (y x : Fin 8) :
    mcuSample m bi y x =
      if bi = 4 then m.cb[y][x]
      else if bi = 5 then m.cr[y][x]
      else m.y[y.val + 8 * (bi.val / 2 % 2)][x.val + 8 * (bi.val % 2)] :=
  match bi with
  | 0 | 1 | 2 | 3 | 4 | 5 => rfl

/-- The samples of the MCU that CSC computes, plane by plane (R176). -/
theorem mcuSample_convertMcu (s : State) (b : Fin 6) (y x : Fin 8) :
    mcuSample (convertMcu s) b y x =
      if b = 4 then cbSamp s (8 * s.mx.toNat + x.val) (8 * s.my.toNat + y.val)
      else if b = 5 then crSamp s (8 * s.mx.toNat + x.val) (8 * s.my.toNat + y.val)
      else ySamp s (16 * s.mx.toNat + 8 * (b.val % 2) + x.val) (16 * s.my.toNat + 8 * (b.val / 2 % 2) + y.val) := by
  have hluma : (convertMcu s).y[y.val + 8 * (b.val / 2 % 2)][x.val + 8 * (b.val % 2)] =
      ySamp s (16 * s.mx.toNat + 8 * (b.val % 2) + x.val) (16 * s.my.toNat + 8 * (b.val / 2 % 2) + y.val) := by
    rw [Nat.add_assoc, Nat.add_assoc, Nat.add_comm _ x.val, Nat.add_comm _ y.val]
    exact convertMcu_y s ⟨y.val + 8 * (b.val / 2 % 2), by omega⟩ ⟨x.val + 8 * (b.val % 2), by omega⟩
  rw [mcuSample_eq, convertMcu_cb, convertMcu_cr, hluma]

/-! ### BLKLD (spec/42_block_splitter.md R175) -/

theorem exec_blkld_eq (s : State) : exec .blkld s = .next { s with sblk := loadBlock s.mcu s.bi, uop := 0x22 } :=
  exec_eq_finish (by decide) s

/-! ### The obligations -/

/-- Settles O25: the sample stored at a natural index is the one that R175's row for BI names. -/
theorem blkldCopiesTheBlock : Obligations.BlkldCopiesTheBlock := fun s =>
  ⟨_, exec_blkld_eq s, rfl, fun y x => (loadBlock_natIndex s.mcu s.bi y x).trans (mcuSample_eq s.mcu s.bi y x)⟩

/-- Settles O26: BLKLD copies from the MCU that CSC computed. -/
theorem blockHoldsPlaneSamples : Obligations.BlockHoldsPlaneSamples := by
  intro s s1 t b hcsc hblkld y x
  rw [exec_csc_eq (not_fetchOutside_of_exec hcsc)] at hcsc
  cases hcsc
  rw [exec_blkld_eq] at hblkld
  cases hblkld
  exact (loadBlock_natIndex (convertMcu s) b y x).trans (mcuSample_convertMcu s b y x)

end Sys2Proof.Machine
end

section
/-! The forward DCT: the sums of its weights, the ranges of both passes, the block that FDCT stores, and flat blocks
(spec/43_fdct.md). -/

namespace Sys2Proof.Machine

/-! ### Weighted sums -/

theorem sum8_add (f g : Fin 8 → Int) : (sum8 fun x => f x + g x) = sum8 f + sum8 g := by
  simp only [sum8]
  omega

theorem sum8_const_mul (c : Int) (d : Fin 8 → Int) : (sum8 fun x => c * d x) = c * sum8 d := by
  simp only [sum8, Int.mul_add]

theorem sum8_le_sum8 {f g : Fin 8 → Int} (h : ∀ x, f x ≤ g x) : sum8 f ≤ sum8 g := by
  have h0 := h 0
  have h1 := h 1
  have h2 := h 2
  have h3 := h 3
  have h4 := h 4
  have h5 := h 5
  have h6 := h 6
  have h7 := h 7
  simp only [sum8]
  omega

section
variable {lo hi : Int}

/-- A value in `lo .. hi` lies within half the width of the interval from its midpoint; this is twice that, with a weight
of either sign. -/
theorem two_mul_weighted_bounds {a : Int} (h : lo ≤ a ∧ a ≤ hi) (w : Int) :
    (lo + hi) * w ≤ 2 * (a * w) + (hi - lo) * (w.natAbs : Int) ∧
      2 * (a * w) ≤ (lo + hi) * w + (hi - lo) * (w.natAbs : Int) := by
  obtain ⟨hlow, hhigh⟩ := h
  rcases Int.le_total 0 w with hw | hw
  · have hlow' : lo * w ≤ a * w := Int.mul_le_mul_of_nonneg_right hlow hw
    have hhigh' : a * w ≤ hi * w := Int.mul_le_mul_of_nonneg_right hhigh hw
    rw [Int.natAbs_of_nonneg hw, Int.add_mul, Int.sub_mul]
    omega
  · have hlow' : a * w ≤ lo * w := Int.mul_le_mul_of_nonpos_right hlow hw
    have hhigh' : hi * w ≤ a * w := Int.mul_le_mul_of_nonpos_right hhigh hw
    rw [Int.ofNat_natAbs_of_nonpos hw, Int.mul_neg, Int.add_mul, Int.sub_mul]
    omega

/-- A weighted sum of values in `lo .. hi` lies within half the interval's width, times the sum of the absolute weights,
of its midpoint times the sum of the weights. -/
theorem two_mul_sum8_bounds {f : Fin 8 → Int} (d : Fin 8 → Int) (hf : ∀ x, lo ≤ f x ∧ f x ≤ hi) :
    (lo + hi) * sum8 d ≤ 2 * (sum8 fun x => f x * d x) + (hi - lo) * (sum8 fun x => ((d x).natAbs : Int)) ∧
      2 * (sum8 fun x => f x * d x) ≤ (lo + hi) * sum8 d + (hi - lo) * (sum8 fun x => ((d x).natAbs : Int)) := by
  simp only [← sum8_const_mul, ← sum8_add]
  exact ⟨sum8_le_sum8 fun x => (two_mul_weighted_bounds (hf x) (d x)).1,
    sum8_le_sum8 fun x => (two_mul_weighted_bounds (hf x) (d x)).2⟩
end

/-! ### The weights (spec/43_fdct.md R185) -/

theorem sum8_dctm_zero : sum8 (dctm 0) = 46344 := by decide

/-- The cosines of a frequency above 0 cancel. -/
theorem sum8_dctm_of_ne_zero : ∀ u : Fin 8, u ≠ 0 → sum8 (dctm u) = 0 := by decide

theorem sum8_natAbs_dctm_le : ∀ u : Fin 8, (sum8 fun x => ((dctm u x).natAbs : Int)) ≤ 46344 := by decide

section
variable {f : Fin 8 → Int} {lo hi : Int}

theorem dctSum_bounds (hf : ∀ x, lo ≤ f x ∧ f x ≤ hi) (u : Fin 8) :
    (lo + hi) * sum8 (dctm u) ≤ 2 * (sum8 fun x => f x * dctm u x) + (hi - lo) * 46344 ∧
      2 * (sum8 fun x => f x * dctm u x) ≤ (lo + hi) * sum8 (dctm u) + (hi - lo) * 46344 := by
  obtain ⟨hlow, hhigh⟩ := two_mul_sum8_bounds (dctm u) hf
  have hwidth : 0 ≤ hi - lo := Int.sub_nonneg_of_le (Int.le_trans (hf 0).1 (hf 0).2)
  have hweights := Int.mul_le_mul_of_nonneg_left (sum8_natAbs_dctm_le u) hwidth
  exact ⟨Int.le_trans hlow (Int.add_le_add_left hweights _), Int.le_trans hhigh (Int.add_le_add_left hweights _)⟩

/-- Frequency 0 sums the values with equal weights. -/
theorem dctSum_zero_bounds (hf : ∀ x, lo ≤ f x ∧ f x ≤ hi) :
    lo * 46344 ≤ (sum8 fun x => f x * dctm 0 x) ∧ (sum8 fun x => f x * dctm 0 x) ≤ hi * 46344 := by
  have h := dctSum_bounds hf 0
  rw [sum8_dctm_zero] at h
  omega

/-- At a frequency above 0 the midpoint of the values cancels, and only their width is left. -/
theorem dctSum_bounds_of_ne_zero (hf : ∀ x, lo ≤ f x ∧ f x ≤ hi) {u : Fin 8} (hu : u ≠ 0) :
    -((hi - lo) * 46344) ≤ 2 * (sum8 fun x => f x * dctm u x) ∧
      2 * (sum8 fun x => f x * dctm u x) ≤ (hi - lo) * 46344 := by
  have h := dctSum_bounds hf u
  rw [sum8_dctm_of_ne_zero u hu] at h
  omega
end

/-! ### The row pass (spec/43_fdct.md R186, R187) -/

theorem rowPass_getElem (b : Vector Byte 64) (y u : Fin 8) : (rowPass b)[y][u] = (rowAcc b y u + 512) / 1024 := by
  simp [rowPass, asr]

theorem levelShift_bounds (p : Byte) : -128 ≤ (p.toNat : Int) - 128 ∧ (p.toNat : Int) - 128 ≤ 127 := by
  omega

theorem rowPass_zero_bounds (b : Vector Byte 64) (y : Fin 8) :
    -5793 ≤ (rowPass b)[y][0] ∧ (rowPass b)[y][0] ≤ 5748 := by
  have hacc : -128 * 46344 ≤ rowAcc b y 0 ∧ rowAcc b y 0 ≤ 127 * 46344 :=
    dctSum_zero_bounds fun _ => levelShift_bounds _
  have hval : (rowPass b)[y][0] = (rowAcc b y 0 + 512) / 1024 := rowPass_getElem b y 0
  omega

theorem rowPass_bounds_of_ne_zero (b : Vector Byte 64) (y : Fin 8) {u : Fin 8} (hu : u ≠ 0) :
    -5770 ≤ (rowPass b)[y][u] ∧ (rowPass b)[y][u] ≤ 5770 := by
  have hacc : -((127 - -128) * 46344) ≤ 2 * rowAcc b y u ∧ 2 * rowAcc b y u ≤ (127 - -128) * 46344 :=
    dctSum_bounds_of_ne_zero (fun _ => levelShift_bounds _) hu
  rw [rowPass_getElem]
  omega

/-! ### The column pass (spec/43_fdct.md R186, R187) -/

theorem dctCoef_eq (t : Vector (Vector Int 8) 8) (v u : Fin 8) : dctCoef t v u = (colAcc t v u + 131072) / 262144 := by
  simp [dctCoef, asr]

theorem dctCoef_dc_bounds (b : Vector Byte 64) : -1024 ≤ dctCoef (rowPass b) 0 0 ∧ dctCoef (rowPass b) 0 0 ≤ 1016 := by
  have hacc : -5793 * 46344 ≤ colAcc (rowPass b) 0 0 ∧ colAcc (rowPass b) 0 0 ≤ 5748 * 46344 :=
    dctSum_zero_bounds (rowPass_zero_bounds b)
  rw [dctCoef_eq]
  omega

/-- An AC coefficient has a frequency above 0 in one direction at least. In the vertical one the column pass cancels the
midpoint of `T`; in the horizontal one the row pass did, and `T` lies symmetric about 0. -/
theorem two_mul_colAcc_ac_bounds (b : Vector Byte 64) {v u : Fin 8} (h : v ≠ 0 ∨ u ≠ 0) :
    -(11541 * 46344) ≤ 2 * colAcc (rowPass b) v u ∧ 2 * colAcc (rowPass b) v u ≤ 11541 * 46344 := by
  by_cases hu : u = 0
  · subst hu
    exact dctSum_bounds_of_ne_zero (rowPass_zero_bounds b) (h.resolve_right (· rfl))
  · have hacc : (-5770 + 5770) * sum8 (dctm v) ≤ 2 * colAcc (rowPass b) v u + (5770 - -5770) * 46344 ∧
        2 * colAcc (rowPass b) v u ≤ (-5770 + 5770) * sum8 (dctm v) + (5770 - -5770) * 46344 :=
      dctSum_bounds (fun y => rowPass_bounds_of_ne_zero b y hu) v
    omega

theorem dctCoef_ac_bounds (b : Vector Byte 64) {v u : Fin 8} (h : v ≠ 0 ∨ u ≠ 0) :
    -1020 ≤ dctCoef (rowPass b) v u ∧ dctCoef (rowPass b) v u ≤ 1020 := by
  have hacc := two_mul_colAcc_ac_bounds b h
  rw [dctCoef_eq]
  omega

/-! ### The block of coefficients (spec/43_fdct.md R186) -/

theorem rowOf_ne_zero_or_colOf_ne_zero {n : Fin 64} (h : n ≠ 0) : rowOf n ≠ 0 ∨ colOf n ≠ 0 := by
  simp only [ne_eq, rowOf, colOf, Fin.ext_iff, Fin.val_zero] at h ⊢
  omega

theorem toCoef_toInt {v : Int} (hlow : -2048 ≤ v) (hhigh : v < 2048) : (toCoef v).toInt = v :=
  BitVec.toInt_ofInt_eq_self (by decide) hlow hhigh

theorem forwardDct_getElem (b : Vector Byte 64) (n : Fin 64) :
    (forwardDct b)[n] = toCoef (dctCoef (rowPass b) (rowOf n) (colOf n)) := by
  simp [forwardDct]

/-- No coefficient wraps: the ranges of R187 lie inside those of s12. -/
theorem forwardDct_toInt (b : Vector Byte 64) (n : Fin 64) :
    ((forwardDct b)[n]).toInt = dctCoef (rowPass b) (rowOf n) (colOf n) := by
  have hrange : -1024 ≤ dctCoef (rowPass b) (rowOf n) (colOf n) ∧ dctCoef (rowPass b) (rowOf n) (colOf n) ≤ 1020 := by
    by_cases hn : n = 0
    · subst hn
      have := dctCoef_dc_bounds b
      change -1024 ≤ dctCoef (rowPass b) 0 0 ∧ dctCoef (rowPass b) 0 0 ≤ 1020
      omega
    · have := dctCoef_ac_bounds b (rowOf_ne_zero_or_colOf_ne_zero hn)
      omega
  rw [forwardDct_getElem, toCoef_toInt (by omega) (by omega)]

theorem exec_fdct_eq (s : State) : exec .fdct s = .next { s with fblk := forwardDct s.sblk, uop := 0x23 } :=
  exec_eq_finish (by decide) s

/-! ### Flat blocks (spec/43_fdct.md R189) -/

section
variable {b : Vector Byte 64} {g : Byte}

theorem rowPass_flat (hflat : ∀ n : Fin 64, b[n] = g) (y u : Fin 8) :
    (rowPass b)[y][u] = (((g.toNat : Int) - 128) * sum8 (dctm u) + 512) / 1024 := by
  rw [rowPass_getElem, rowAcc]
  simp only [hflat, sum8_const_mul]

/-- The rows of `T` are equal, so the column pass is a product too. -/
theorem dctCoef_flat (hflat : ∀ n : Fin 64, b[n] = g) (v u : Fin 8) :
    dctCoef (rowPass b) v u =
      ((((g.toNat : Int) - 128) * sum8 (dctm u) + 512) / 1024 * sum8 (dctm v) + 131072) / 262144 := by
  rw [dctCoef_eq, colAcc]
  simp only [rowPass_flat hflat, sum8_const_mul]

theorem dctCoef_flat_dc (hflat : ∀ n : Fin 64, b[n] = g) :
    dctCoef (rowPass b) 0 0 = (8 * ((((g.toNat : Int) - 128) * 46344 + 512) / 1024) * 5793 + 131072) / 262144 := by
  rw [dctCoef_flat hflat, sum8_dctm_zero]
  omega

theorem dctCoef_flat_ac (hflat : ∀ n : Fin 64, b[n] = g) {v u : Fin 8} (h : v ≠ 0 ∨ u ≠ 0) :
    dctCoef (rowPass b) v u = 0 := by
  rw [dctCoef_flat hflat]
  rcases h with hv | hu
  · simp [sum8_dctm_of_ne_zero v hv]
  · simp [sum8_dctm_of_ne_zero u hu]
end

/-- `8 * 5793^2` is close to `2^28`, so a flat block's DC coefficient is 8 times its level-shifted sample but for the
roundings. -/
theorem flatDc_near (g : Byte) {c : Int}
    (hc : c = (8 * ((((g.toNat : Int) - 128) * 46344 + 512) / 1024) * 5793 + 131072) / 262144) :
    8 * ((g.toNat : Int) - 128) - 1 ≤ c ∧ c ≤ 8 * ((g.toNat : Int) - 128) + 1 := by
  have := levelShift_bounds g
  omega

/-! ### The obligations -/

/-- Settles O27: the coefficient stored at a natural index is the integer of both passes, which does not wrap. -/
theorem fdctComputesTheTransform : Obligations.FdctComputesTheTransform := by
  refine fun s => ⟨_, exec_fdct_eq s, rfl, fun v u => ?_⟩
  have hcoef : ((forwardDct s.sblk)[natIndex v u]).toInt = (colAcc (rowPass s.sblk) v u + 131072) / 262144 := by
    rw [forwardDct_toInt, rowOf_natIndex, colOf_natIndex, dctCoef_eq]
  simp only [colAcc, rowPass_getElem] at hcoef
  exact hcoef

/-- Settles O28: each pass bounds its sums by the range of what it sums. -/
theorem fdctRanges : Obligations.FdctRanges := by
  refine fun b => ⟨?_, fun n hn => ?_⟩
  · have hdc : ((forwardDct b)[0]).toInt = dctCoef (rowPass b) 0 0 := forwardDct_toInt b 0
    rw [DcRange, hdc]
    exact dctCoef_dc_bounds b
  · rw [AcRange, forwardDct_toInt]
    exact dctCoef_ac_bounds b (rowOf_ne_zero_or_colOf_ne_zero hn)

/-- Settles O29: both passes multiply the flat value by the sum of a row of weights, which is 0 but for frequency 0. -/
theorem flatBlockHasOnlyDc : Obligations.FlatBlockHasOnlyDc := by
  intro s g hflat
  have hdc : ((forwardDct s.sblk)[0]).toInt =
      (8 * ((((g.toNat : Int) - 128) * 46344 + 512) / 1024) * 5793 + 131072) / 262144 :=
    (forwardDct_toInt s.sblk 0).trans (dctCoef_flat_dc hflat)
  refine ⟨_, exec_fdct_eq s, fun n hn => ?_, hdc, flatDc_near g hdc⟩
  have hac : (forwardDct s.sblk)[n] = toCoef 0 := by
    rw [forwardDct_getElem, dctCoef_flat_ac hflat (rowOf_ne_zero_or_colOf_ne_zero hn)]
  exact hac

end Sys2Proof.Machine
end

section
/-! The quantizer: the tables that QTGEN derives from a quality, the quotient that is nearest with ties away from zero, and
the block that QUANT stores (spec/44_quantizer.md). -/

namespace Sys2Proof.Machine

/-! ### Quality and scale factor (spec/44_quantizer.md R200, R201) -/

theorem clamp_bounds (v : Nat) {lo hi : Nat} (h : lo ≤ hi) : lo ≤ clamp v lo hi ∧ clamp v lo hi ≤ hi :=
  ⟨Nat.le_min.mpr ⟨Nat.le_max_right v lo, h⟩, Nat.min_le_right _ hi⟩

theorem clamp_le_clamp {v w : Nat} (h : v ≤ w) (lo hi : Nat) : clamp v lo hi ≤ clamp w lo hi := by
  unfold clamp
  omega

theorem effectiveQuality_bounds (q : BitVec 8) : 1 ≤ effectiveQuality q ∧ effectiveQuality q ≤ 100 :=
  clamp_bounds q.toNat (by decide)

theorem effectiveQuality_le {q q' : BitVec 8} (h : q.toNat ≤ q'.toNat) : effectiveQuality q ≤ effectiveQuality q' :=
  clamp_le_clamp h 1 100

/-- The scale factor falls on both sides of 50, and from 102 at 49 to 100 at 50. -/
theorem scaleFactor_le {a b : Nat} (hpos : 0 < a) (h : a ≤ b) : scaleFactor b ≤ scaleFactor a := by
  unfold scaleFactor
  by_cases hb : b < 50
  · have ha : a < 50 := by omega
    rw [if_pos ha, if_pos hb]
    exact Nat.div_le_div_left h hpos
  · rw [if_neg hb]
    by_cases ha : a < 50
    · have hscale : 100 ≤ 5000 / a := (Nat.le_div_iff_mul_le hpos).mpr (by omega)
      rw [if_pos ha]
      omega
    · rw [if_neg ha]
      omega

/-! ### The tables (spec/44_quantizer.md R202) -/

theorem scaledEntry_bounds (base scale : Nat) : 1 ≤ scaledEntry base scale ∧ scaledEntry base scale ≤ 255 :=
  clamp_bounds _ (by decide)

theorem scaledEntry_le {scale scale' : Nat} (base : Nat) (h : scale ≤ scale') :
    scaledEntry base scale ≤ scaledEntry base scale' :=
  clamp_le_clamp (Nat.div_le_div_right (Nat.add_le_add_right (Nat.mul_le_mul_left base h) 50)) 1 255

/-- The clamp to 255 keeps an entry in its byte. -/
theorem quantTables_toNat (q : BitVec 8) (t : Fin 2) (k : Fin 64) :
    ((quantTables q)[t][k]).toNat = scaledEntry (baseZZ t k) (scaleFactor (effectiveQuality q)) := by
  have hentry : (quantTables q)[t][k] = BitVec.ofNat 8 (scaledEntry (baseZZ t k) (scaleFactor (effectiveQuality q))) := by
    simp [quantTables]
  obtain ⟨_, hbyte⟩ := scaledEntry_bounds (baseZZ t k) (scaleFactor (effectiveQuality q))
  rw [hentry, BitVec.toNat_ofNat, Nat.mod_eq_of_lt (by omega)]

theorem exec_qtgen_eq (s : State) : exec .qtgen s = .next { s with qt := quantTables s.quality, uop := 0x10 } :=
  exec_eq_finish (by decide) s

/-! ### The quotient (spec/44_quantizer.md R205, R206) -/

section
variable {d : Nat}

/-- Adding `d / 2` before the division rounds the quotient to nearest. -/
theorem quantMagnitude_mul_bounds (a : Nat) (hd : 0 < d) :
    quantMagnitude a d * d ≤ a + d / 2 ∧ a + d / 2 < quantMagnitude a d * d + d :=
  ⟨Nat.div_mul_le_self _ _, Nat.lt_div_mul_add hd⟩

theorem quantMagnitude_le (a : Nat) (hd : 0 < d) : quantMagnitude a d ≤ a := by
  have hdividend : a ≤ a * d := Nat.le_mul_of_pos_right a hd
  have hlt : a + d / 2 < (a + 1) * d := by
    rw [Nat.add_one_mul]
    omega
  exact Nat.le_of_lt_succ ((Nat.div_lt_iff_lt_mul hd).mpr hlt)
end

section
variable {d : Byte}

theorem toNat_pos_of_ne_zero (hd : d ≠ 0) : 0 < d.toNat := (BitVec.pos_iff_ne_zero d).mpr hd

/-- The quotient does not wrap, as it is no larger than the coefficient. -/
theorem quantize_toInt (f : Coef) (hd : d ≠ 0) :
    (0 ≤ f.toInt → (quantize f d).toInt = (quantMagnitude f.toInt.natAbs d.toNat : Int)) ∧
      (f.toInt < 0 → (quantize f d).toInt = -(quantMagnitude f.toInt.natAbs d.toNat : Int)) := by
  have hmag := quantMagnitude_le f.toInt.natAbs (toNat_pos_of_ne_zero hd)
  have hlow : -2048 ≤ f.toInt := BitVec.le_toInt f
  have hhigh : f.toInt < 2048 := BitVec.toInt_lt
  unfold quantize
  rw [if_neg hd]
  refine ⟨fun hf => ?_, fun hf => ?_⟩
  · rw [if_pos hf, toCoef_toInt (by omega) (by omega)]
  · rw [if_neg (by omega), toCoef_toInt (by omega) (by omega)]

theorem quantize_natAbs (f : Coef) (hd : d ≠ 0) :
    (quantize f d).toInt.natAbs = quantMagnitude f.toInt.natAbs d.toNat := by
  obtain ⟨hpos, hneg⟩ := quantize_toInt f hd
  rcases Int.lt_or_le f.toInt 0 with hf | hf
  · rw [hneg hf, Int.natAbs_neg, Int.natAbs_natCast]
  · rw [hpos hf, Int.natAbs_natCast]

theorem quantize_mul_nonneg (f : Coef) (hd : d ≠ 0) : 0 ≤ (quantize f d).toInt * f.toInt := by
  obtain ⟨hpos, hneg⟩ := quantize_toInt f hd
  rcases Int.lt_or_le f.toInt 0 with hf | hf
  · exact Int.mul_nonneg_of_nonpos_of_nonpos (by rw [hneg hf]; omega) (Int.le_of_lt hf)
  · exact Int.mul_nonneg (by rw [hpos hf]; omega) hf

/-- The remainder of a coefficient of either sign is as large as that of its magnitude. -/
theorem quantize_remainder_natAbs (f : Coef) (hd : d ≠ 0) :
    (f.toInt - (quantize f d).toInt * d.toNat).natAbs =
      ((f.toInt.natAbs : Int) - (quantMagnitude f.toInt.natAbs d.toNat * d.toNat : Nat)).natAbs := by
  obtain ⟨hpos, hneg⟩ := quantize_toInt f hd
  rw [Int.natCast_mul]
  rcases Int.lt_or_le f.toInt 0 with hf | hf
  · rw [hneg hf, Int.neg_mul]
    omega
  · rw [hpos hf, Int.natAbs_of_nonneg hf]
end

/-! ### QUANT (spec/44_quantizer.md R205) -/

theorem quantBlock_getElem (s : State) (n : Fin 64) :
    (quantBlock s)[n] = quantize s.fblk[n] (divisor s (tabOf s.bi) n) := by
  simp [quantBlock]

theorem exec_quant_eq (s : State) : exec .quant s = .next { s with qblk := quantBlock s, uop := 0x24 } :=
  exec_eq_finish (by decide) s

/-! ### The obligations -/

/-- Settles O30: each stored byte is the clamped entry of its table's base. -/
theorem qtgenDerivesTheTables : Obligations.QtgenDerivesTheTables := fun s =>
  ⟨_, exec_qtgen_eq s, rfl, fun k => ⟨quantTables_toNat s.quality 0 k, quantTables_toNat s.quality 1 k⟩⟩

/-- Settles O31: the effective quality rises with QUALITY, the scale factor falls with it, and entries follow the scale. -/
theorem tablesFallWithQuality : Obligations.TablesFallWithQuality := by
  intro q q' t k h
  obtain ⟨hpos, _⟩ := effectiveQuality_bounds q
  rw [quantTables_toNat, quantTables_toNat]
  exact scaledEntry_le _ (scaleFactor_le hpos (effectiveQuality_le h))

/-- Settles O32: the coefficient at each natural index is divided by the divisor that R204 looks up. -/
theorem quantDividesTheBlock : Obligations.QuantDividesTheBlock := by
  refine fun s => ⟨_, exec_quant_eq s, rfl, fun n hd => ?_⟩
  have hdivisor : divisor s (tabOf s.bi) n ≠ 0 := fun h => hd (congrArg BitVec.toNat h)
  have hquotient := quantize_toInt s.fblk[n] hdivisor
  rw [← quantBlock_getElem] at hquotient
  exact hquotient

/-- Settles O33: for the magnitudes, `m * d` lies within `d / 2` of `a`, and above `a` at a tie; the sign changes neither. -/
theorem quotientIsNearestTiesAway : Obligations.QuotientIsNearestTiesAway := by
  intro f d hd
  have hpos := toNat_pos_of_ne_zero hd
  obtain ⟨hlow, hhigh⟩ := quantMagnitude_mul_bounds f.toInt.natAbs hpos
  dsimp only
  rw [quantize_remainder_natAbs f hd, quantize_natAbs f hd]
  exact ⟨by omega, by omega, quantize_mul_nonneg f hd, quantMagnitude_le _ hpos⟩

end Sys2Proof.Machine
end

section
/-! The zig-zag reorderer: the two tables are inverse, the zig-zag table walks the anti-diagonals, and ZZ permutes its block
along it (spec/45_zigzag.md). -/

namespace Sys2Proof.Machine

/-! ### The tables (spec/45_zigzag.md R215, R217) -/

theorem zzInvTable_zzTable : ∀ k : Fin 64, zzInvTable[zzTable[k]] = k := by decide

theorem zzTable_zzInvTable : ∀ n : Fin 64, zzTable[zzInvTable[n]] = n := by decide

/-- Each natural index stands in the zig-zag table once. -/
theorem toList_zzTable_perm : zzTable.toList.Perm (List.finRange 64) := by decide

/-! ### The walk along the anti-diagonals (spec/45_zigzag.md R215) -/

/-- The natural index that R215's construction visits after `n`: along the diagonal of `n`, up on an even one and down on
an odd one, and past its end to the next diagonal. -/
def zigzagNext (n : Nat) : Nat :=
  if (n % 8 + n / 8) % 2 = 0 then
    if n % 8 = 7 then n + 8 else if n / 8 = 0 then n + 1 else n - 7
  else
    if n / 8 = 7 then n + 1 else if n % 8 = 0 then n + 8 else n + 7

theorem zzTable_succ : ∀ k : Fin 63, (zzTable[k.succ]).val = zigzagNext (zzTable[k.castSucc]).val := by decide

/-- On an even diagonal: a step to the upper right, down at the right edge, or right at the top edge. -/
theorem zigzagNext_of_even {n : Nat} (h : (n % 8 + n / 8) % 2 = 0) :
    (n / 8 ≠ 0 ∧ n % 8 ≠ 7 ∧ zigzagNext n / 8 + 1 = n / 8 ∧ zigzagNext n % 8 = n % 8 + 1) ∨
      (n % 8 = 7 ∧ zigzagNext n / 8 = n / 8 + 1 ∧ zigzagNext n % 8 = 7) ∨
      (n / 8 = 0 ∧ n % 8 ≠ 7 ∧ zigzagNext n / 8 = 0 ∧ zigzagNext n % 8 = n % 8 + 1) := by
  rw [zigzagNext, if_pos h]
  by_cases hright : n % 8 = 7
  · rw [if_pos hright]
    omega
  · rw [if_neg hright]
    by_cases htop : n / 8 = 0
    · rw [if_pos htop]
      omega
    · rw [if_neg htop]
      omega

/-- On an odd diagonal: a step to the lower left, right at the bottom edge, or down at the left edge. -/
theorem zigzagNext_of_odd {n : Nat} (h : (n % 8 + n / 8) % 2 ≠ 0) :
    (n % 8 ≠ 0 ∧ n / 8 ≠ 7 ∧ zigzagNext n / 8 = n / 8 + 1 ∧ zigzagNext n % 8 + 1 = n % 8) ∨
      (n / 8 = 7 ∧ zigzagNext n / 8 = 7 ∧ zigzagNext n % 8 = n % 8 + 1) ∨
      (n % 8 = 0 ∧ n / 8 ≠ 7 ∧ zigzagNext n / 8 = n / 8 + 1 ∧ zigzagNext n % 8 = 0) := by
  rw [zigzagNext, if_neg h]
  by_cases hbottom : n / 8 = 7
  · rw [if_pos hbottom]
    omega
  · rw [if_neg hbottom]
    by_cases hleft : n % 8 = 0
    · rw [if_pos hleft]
      omega
    · rw [if_neg hleft]
      omega

/-! ### ZZ (spec/45_zigzag.md R216) -/

theorem zigzagOrder_getElem (b : Vector Coef 64) (k : Fin 64) : (zigzagOrder b)[k] = b[zzTable[k]] :=
  Vector.getElem_ofFn k.isLt

theorem toList_zigzagOrder (b : Vector Coef 64) : (zigzagOrder b).toList = zzTable.toList.map fun n => b[n] := by
  have hmap : zigzagOrder b = zzTable.map fun n => b[n] := by
    refine Vector.ext fun k hk => ?_
    rw [Vector.getElem_map]
    exact zigzagOrder_getElem b ⟨k, hk⟩
  rw [hmap, Vector.toList_map]

theorem toList_eq_map_finRange (b : Vector Coef 64) : b.toList = (List.finRange 64).map fun n => b[n] := by
  rw [List.finRange, List.map_ofFn]
  exact (congrArg Vector.toList Vector.ofFn_getElem.symm).trans Vector.toList_ofFn

theorem toList_zigzagOrder_perm (b : Vector Coef 64) : (zigzagOrder b).toList.Perm b.toList := by
  rw [toList_zigzagOrder, toList_eq_map_finRange]
  exact toList_zzTable_perm.map _

theorem exec_zz_eq (s : State) : exec .zz s = .next { s with zblk := zigzagOrder s.qblk, uop := 0x25 } :=
  exec_eq_finish (by decide) s

/-! ### The obligations -/

/-- Settles O34: place `k` of ZBLK holds the coefficient of natural index `zzTable[k]`, and the table lists each index once. -/
theorem zzReordersTheBlock : Obligations.ZzReordersTheBlock := fun s =>
  ⟨_, exec_zz_eq s, rfl, zigzagOrder_getElem s.qblk, zigzagOrder_getElem s.qblk 0, toList_zigzagOrder_perm s.qblk⟩

/-- Settles O35: the tables are inverse entry by entry, and each entry after the first is R215's successor. -/
theorem zigzagTablesAreInverse : Obligations.ZigzagTablesAreInverse := by
  refine ⟨rfl, rfl, zzInvTable_zzTable, zzTable_zzInvTable, fun k l hkl => ?_⟩
  have hk : k.val < 63 := by omega
  have hnext : (zzTable[l]).val = zigzagNext (zzTable[k]).val := by
    obtain rfl : l = Fin.succ ⟨k.val, hk⟩ := Fin.ext hkl.symm
    exact zzTable_succ ⟨k.val, hk⟩
  dsimp only
  rw [hnext]
  split
  case isTrue heven => exact zigzagNext_of_even heven
  case isFalse hodd => exact zigzagNext_of_odd hodd

end Sys2Proof.Machine
end

section
/-! The entropy coder: categories, the bits that HDC and HAC write, the errors that they raise, and why SymbolOverflow
is unreachable (spec/46_entropy.md). -/

namespace Sys2Proof.Machine

/-! ### Categories (spec/46_entropy.md R220) -/

theorem cat_zero : cat 0 = 0 := rfl

theorem cat_le_iff {v : Int} {n : Nat} : cat v ≤ n ↔ v.natAbs < 2 ^ n := by
  by_cases hv : v = 0
  · rw [hv, cat_zero]
    exact iff_of_true (Nat.zero_le n) (Nat.two_pow_pos n)
  · obtain ⟨k, hcat, hlow, hhigh⟩ := exists_cat_eq_succ hv
    rw [hcat]
    constructor
    · exact fun hn => Nat.lt_of_lt_of_le hhigh (Nat.pow_le_pow_right (by decide) hn)
    · exact fun hn => (Nat.pow_lt_pow_iff_right (by decide)).mp (Nat.lt_of_le_of_lt hlow hn)

/-! ### Bits written to the bitstream (spec/47_bitstream.md R246) -/

section
variable {s : State} {bits : List Bool}

theorem putBitList_of_room (hclean : BitsClean s) (hroom : Room s (packedBytes s bits)) :
    ∃ u, putBitList bits s = .done u ∧ WriterFrame s u ∧ WroteBits s u bits := by
  have hrest : (packedRest s bits).length < 8 := packBits_rest_length _ _ (pendingBits_length_lt s)
  have hput := putBitList_done bits _ s (pendingBits_length_lt s) hroom
  rw [withPending_pendingBits hclean] at hput
  exact ⟨_, hput, rfl, appended_appendList hroom, pendingBits_withPending hrest, bitsClean_withPending hrest⟩

/-- Where there is no room OUTMEM is filled to OUT_BYTES with the bytes that fit. -/
theorem putBitList_of_full (hclean : BitsClean s) (hwp : s.wp.toNat ≤ s.params.outBytes)
    (hfull : ¬ Room s (packedBytes s bits)) :
    ∃ u, putBitList bits s = .raised .encodingError 1 u ∧ WriterFrame s u ∧ u.wp.toNat = s.params.outBytes ∧
      Appended s u ((packedBytes s bits).take (s.params.outBytes - s.wp.toNat)) := by
  obtain ⟨b, hput⟩ := putBitList_raised bits _ s (pendingBits_length_lt s) hwp (Nat.not_le.mp hfull)
  rw [withPending_pendingBits hclean] at hput
  have hlen : ((packedBytes s bits).take (s.params.outBytes - s.wp.toNat)).length = s.params.outBytes - s.wp.toNat :=
    List.length_take_of_le (by omega)
  obtain ⟨hend, hnew⟩ := appended_appendList (s := s)
    (bs := (packedBytes s bits).take (s.params.outBytes - s.wp.toNat)) (by omega)
  exact ⟨_, hput, rfl, hend.trans (by omega), hend, hnew⟩

/-- Bits are refused for want of room only: OUTPUT_OVERFLOW (spec/47_bitstream.md R245). -/
theorem eq_overflow_of_putBitList_raised {c : ErrorCode} {e : BitVec 4} {t : State} (hclean : BitsClean s)
    (hwp : s.wp.toNat ≤ s.params.outBytes) (h : putBitList bits s = .raised c e t) : c = .encodingError ∧ e = 1 := by
  by_cases hroom : Room s (packedBytes s bits)
  · obtain ⟨u, hput, -⟩ := putBitList_of_room hclean hroom
    rw [hput] at h
    cases h
  · obtain ⟨u, hraised, -⟩ := putBitList_of_full hclean hwp hroom
    rw [hraised] at h
    cases h
    exact ⟨rfl, rfl⟩
end

/-! ### The error record (spec/10_state.md R29) -/

theorem errWord_cause (code sub : BitVec 4) (stage : Byte) (comp : BitVec 2) (blk : BitVec 3) :
    (errWord code sub stage comp blk).extractLsb' 0 8 = sub ++ code := by
  rw [errWord, BitVec.append_assoc, BitVec.cast_eq, BitVec.extractLsb'_append_eq_right]

theorem errWord_code (code sub : BitVec 4) (stage : Byte) (comp : BitVec 2) (blk : BitVec 3) :
    (errWord code sub stage comp blk).extractLsb' 0 4 = code :=
  BitVec.extractLsb'_append_eq_right

/-- SUB and CODE of an error that an instruction has entered. -/
theorem enterError_cause (i : Instr) (c : ErrorCode) (e : BitVec 4) (s : State) :
    (enterError i c e s).err.extractLsb' 0 8 = e ++ errorCodeBits c := by
  rw [enterError_err, errWord_cause]

theorem enterError_code (i : Instr) (c : ErrorCode) (e : BitVec 4) (s : State) :
    (enterError i c e s).err.extractLsb' 0 4 = errorCodeBits c := by
  rw [enterError_err, errWord_code]

/-- What an error leaves alone, when the writer ran before it was raised (spec/60_exceptions.md R288). -/
theorem WriterFrame.enterError_eq {s u : State} {i : Instr} {c : ErrorCode} {e : BitVec 4} (h : WriterFrame s u) :
    enterError i c e u = { s with
      phase := .error, err := (enterError i c e u).err, errInfo := (enterError i c e u).errInfo,
      outmem := (enterError i c e u).outmem, wp := (enterError i c e u).wp, bitacc := (enterError i c e u).bitacc,
      bitcnt := (enterError i c e u).bitcnt } := by
  rw [show u = _ from h]
  rfl

/-- What a next state of an instruction comes from: its body completed and SEQ advanced, or the body raised an error. -/
theorem exec_next_cases {i : Instr} {s t : State} (h : exec i s = .next t) :
    (∃ u, instrBody s i = .done u ∧ advance i u = .next t) ∨
      ∃ c e u, instrBody s i = .raised c e u ∧ t = enterError i c e u := by
  have hfinish := finish_of_exec_next h
  cases hbody : instrBody s i with
  | done u => exact .inl ⟨u, rfl, by rwa [hbody, finish_done] at hfinish⟩
  | raised c e u =>
    rw [hbody, finish_raised] at hfinish
    cases hfinish
    exact .inr ⟨c, e, u, rfl, rfl⟩

/-- A micro-operation enters ERROR by what its body raises. -/
theorem eq_enterError_of_exec {i : Instr} {s t : State} (hnop : i ≠ .nop) (hstart : i ≠ .start) (hfin : i ≠ .fin)
    (h : exec i s = .next t) (ht : t.phase = .error) (hs : s.phase ≠ .error) :
    ∃ c e u, instrBody s i = .raised c e u ∧ t = enterError i c e u := by
  refine (exec_next_cases h).resolve_left fun ⟨u, hbody, hadvance⟩ => hs ?_
  have hphase : t.phase = u.phase := by rw [advance_frame hadvance]
  exact (instrBody_phase hnop hstart hfin hbody).symm.trans (hphase.symm.trans ht)

/-! ### HDC (spec/46_entropy.md R223, R225) -/

section
variable {s : State}

/-- A DC item that has a code is refused for want of room only. -/
theorem eq_overflow_of_codeDc_raised {c : ErrorCode} {e : BitVec 4} {t : State} (hclean : BitsClean s)
    (hwp : s.wp.toNat ≤ s.params.outBytes) (hcoded : cat (dcDiff s) ≤ 11) (h : codeDc s = .raised c e t) :
    c = .encodingError ∧ e = 1 := by
  rw [codeDc_of_coded hcoded, andThen_eq_raised] at h
  rcases h with hput | ⟨u, -, hpred⟩
  · exact eq_overflow_of_putBitList_raised hclean hwp hput
  · cases hpred

theorem exec_hdc_of_uncoded (h : 11 < cat (dcDiff s)) :
    exec .hdc s = .next (enterError .hdc .symbolOverflow 1 s) := by
  rw [exec_eq_finish (by decide), instrBody, codeDc_of_uncoded h, finish_raised]

/-! ### HAC (spec/46_entropy.md R224, R225) -/

theorem codeAc_eq_hacBits (hcoded : ∀ v ∈ acCoefs s, cat v.toInt ≤ 10) :
    codeAc (tabOf s.bi) (acCoefs s) 0 s = putBitList (hacBits s) s :=
  codeAc_of_coded _ _ 0 s hcoded

/-- AC items that have codes are refused for want of room only. -/
theorem eq_overflow_of_codeAc_raised {c : ErrorCode} {e : BitVec 4} {t : State} (hclean : BitsClean s)
    (hwp : s.wp.toNat ≤ s.params.outBytes) (hcoded : ∀ v ∈ acCoefs s, cat v.toInt ≤ 10)
    (h : codeAc (tabOf s.bi) (acCoefs s) 0 s = .raised c e t) : c = .encodingError ∧ e = 1 := by
  rw [codeAc_eq_hacBits hcoded] at h
  exact eq_overflow_of_putBitList_raised hclean hwp h

theorem exec_hac_of_uncoded (huncoded : ∃ v ∈ acCoefs s, 10 < cat v.toInt) :
    exec .hac s = finish .hac ((putBitList (hacBitsBefore s) s).andThen (.raised .symbolOverflow 2)) := by
  rw [exec_eq_finish (by decide), instrBody, codeAc_of_uncoded _ _ 0 s huncoded, hacBitsBefore]

theorem exec_hac_of_uncoded_of_room (hclean : BitsClean s) (huncoded : ∃ v ∈ acCoefs s, 10 < cat v.toInt)
    (hroom : Room s (packedBytes s (hacBitsBefore s))) :
    ∃ u, exec .hac s = .next (enterError .hac .symbolOverflow 2 u) ∧ WriterFrame s u ∧
      WroteBits s u (hacBitsBefore s) := by
  obtain ⟨u, hput, hwrote⟩ := putBitList_of_room hclean hroom
  exact ⟨u, by rw [exec_hac_of_uncoded huncoded, hput, andThen_done, finish_raised], hwrote⟩

theorem exec_hac_of_uncoded_of_full (hclean : BitsClean s) (hwp : s.wp.toNat ≤ s.params.outBytes)
    (huncoded : ∃ v ∈ acCoefs s, 10 < cat v.toInt) (hfull : ¬ Room s (packedBytes s (hacBitsBefore s))) :
    ∃ u, exec .hac s = .next (enterError .hac .encodingError 1 u) ∧ WriterFrame s u ∧ u.wp.toNat = s.params.outBytes ∧
      Appended s u ((packedBytes s (hacBitsBefore s)).take (s.params.outBytes - s.wp.toNat)) := by
  obtain ⟨u, hraised, hfilled⟩ := putBitList_of_full hclean hwp hfull
  exact ⟨u, by rw [exec_hac_of_uncoded huncoded, hraised, andThen_raised, finish_raised], hfilled⟩

/-! ### HAC's rows of spec/40_driver.md R134 -/

theorem mcuW_le (s : State) : mcuW s ≤ 4096 := by
  have hwidth := s.width.isLt
  rw [mcuW, ceilDiv]
  omega

theorem mcuH_le (s : State) : mcuH s ≤ 4096 := by
  have hheight := s.height.isLt
  rw [mcuH, ceilDiv]
  omega

/-- MX and MY do not wrap. -/
theorem mcuIndex_succ_toNat {x : BitVec 12} (h : x.toNat + 1 < 4096) : (x + 1).toNat = x.toNat + 1 := by
  rw [BitVec.toNat_add_of_lt h]
  rfl

theorem bi_not_lt_five (h : s.bi = 5) : ¬ s.bi.val < 5 := by
  rw [h]
  decide

/-- `t` is where one of HAC's four rows takes `s`: the next block, the next MCU of the row, the next row, or FLUSH. -/
def AdvancesHac (s t : State) : Prop :=
  (s.bi.val < 5 → t.uop = 0x21 ∧ t.mx = s.mx ∧ t.my = s.my ∧ t.bi.val = s.bi.val + 1) ∧
  (s.bi = 5 → s.mx.toNat + 1 < mcuW s → t.uop = 0x20 ∧ t.mx.toNat = s.mx.toNat + 1 ∧ t.my = s.my ∧ t.bi = 0) ∧
  (s.bi = 5 → s.mx.toNat + 1 = mcuW s → s.my.toNat + 1 < mcuH s →
    t.uop = 0x20 ∧ t.mx = 0 ∧ t.my.toNat = s.my.toNat + 1 ∧ t.bi = 0) ∧
  (s.bi = 5 → s.mx.toNat + 1 = mcuW s → s.my.toNat + 1 = mcuH s →
    t.uop = 0x27 ∧ t.mx = s.mx ∧ t.my = s.my ∧ t.bi = s.bi)

theorem advanceHac_advances {t : State} (h : advanceHac s = .next t) : AdvancesHac s t := by
  refine ⟨fun hbi => ?_, fun hbi hmx => ?_, fun hbi hmx hmy => ?_, fun hbi hmx hmy => ?_⟩
  · rw [advanceHac, dif_pos hbi] at h
    cases h
    exact ⟨rfl, rfl, rfl, rfl⟩
  · rw [advanceHac, dif_neg (bi_not_lt_five hbi), if_pos hmx] at h
    cases h
    exact ⟨rfl, mcuIndex_succ_toNat (Nat.lt_of_lt_of_le hmx (mcuW_le s)), rfl, rfl⟩
  · rw [advanceHac, dif_neg (bi_not_lt_five hbi), if_neg (by omega), if_pos ⟨hmx, hmy⟩] at h
    cases h
    exact ⟨rfl, rfl, mcuIndex_succ_toNat (Nat.lt_of_lt_of_le hmy (mcuH_le s)), rfl⟩
  · rw [advanceHac, dif_neg (bi_not_lt_five hbi), if_neg (by omega), if_neg (by omega), if_pos ⟨hmx, hmy⟩] at h
    cases h
    exact ⟨rfl, rfl, rfl, rfl⟩

theorem WriterFrame.advancesHac {t u : State} (h : WriterFrame s u) (hadv : AdvancesHac u t) : AdvancesHac s t := by
  rw [show u = _ from h] at hadv
  exact hadv

/-- Inside the image HAC's advance has a row. -/
theorem advanceHac_next (h : ScanOk s) : ∃ t, advanceHac s = .next t ∧ AdvancesHac s t := by
  obtain ⟨hmx, hmy⟩ := h
  rcases advanceHac_next_or_fault s with ⟨t, ht⟩ | ⟨⟨_, hout⟩, _⟩
  · exact ⟨t, ht, advanceHac_advances ht⟩
  · omega
end

/-! ### Ranges while BUSY (spec/44_quantizer.md R206, spec/46_entropy.md R226) -/

section
variable {s : State}

theorem exists_index_of_mem_acCoefs {v : Coef} (h : v ∈ acCoefs s) : ∃ n : Fin 64, n ≠ 0 ∧ s.zblk[n] = v := by
  obtain ⟨k, hk, hv⟩ := List.mem_iff_getElem.mp h
  have hlen : k < 63 := by
    rwa [acCoefs, List.length_tail, Vector.length_toList] at hk
  refine ⟨⟨k + 1, by omega⟩, Fin.ne_of_val_ne (Nat.succ_ne_zero k), ?_⟩
  rw [← hv]
  exact (List.getElem_tail hk).symm

theorem cat_le_eleven_of_dcRange {v p : Coef} (hv : DcRange v) (hp : DcRange p) : cat (v.toInt - p.toInt) ≤ 11 := by
  obtain ⟨hvlow, hvhigh⟩ := hv
  obtain ⟨hplow, hphigh⟩ := hp
  exact cat_le_iff.mpr (by omega)

theorem cat_le_ten_of_acRange {v : Coef} (h : AcRange v) : cat v.toInt ≤ 10 := by
  obtain ⟨hlow, hhigh⟩ := h
  exact cat_le_iff.mpr (by omega)

theorem dcDiff_coded (hblock : BlockOk s.zblk) (hpred : PredOk s) : cat (dcDiff s) ≤ 11 := by
  obtain ⟨hdc, -⟩ := hblock
  exact cat_le_eleven_of_dcRange hdc (hpred _)

theorem acCoefs_coded (hblock : BlockOk s.zblk) : ∀ v ∈ acCoefs s, cat v.toInt ≤ 10 := by
  intro v hv
  obtain ⟨-, hac⟩ := hblock
  obtain ⟨n, hn, rfl⟩ := exists_index_of_mem_acCoefs hv
  exact cat_le_ten_of_acRange (hac n hn)

/-! ### What raises an error, and what leaves ERR alone -/

theorem eq_invalidArguments_of_checkArguments_raised {c : ErrorCode} {e : BitVec 4} {t : State}
    (h : checkArguments s = .raised c e t) : c = .invalidArguments := by
  unfold checkArguments at h
  split at h
  · cases h; rfl
  split at h
  · cases h; rfl
  split at h
  · cases h; rfl
  split at h
  · cases h; rfl
  · cases h

theorem eq_encodingError_of_emitBytes_raised {bytes : List Byte} {c : ErrorCode} {e : BitVec 4} {t : State}
    (hwp : s.wp.toNat ≤ s.params.outBytes) (h : emitBytes bytes s = .raised c e t) : c = .encodingError := by
  rw [emitBytes_spec bytes s hwp] at h
  split at h
  · cases h
  · cases h; rfl

theorem eq_encodingError_of_padBits_raised {c : ErrorCode} {e : BitVec 4} {t : State} (hclean : BitsClean s)
    (hwp : s.wp.toNat ≤ s.params.outBytes) (h : padBits s = .raised c e t) : c = .encodingError := by
  unfold padBits at h
  split at h
  · rw [putBits_eq_list] at h
    exact (eq_overflow_of_putBitList_raised hclean hwp h).1
  · cases h

/-- Where its stage condition holds, no micro-operation raises SymbolOverflow: HDC and HAC find categories with a code,
and the others never raise it (spec/46_entropy.md R226). -/
theorem ne_symbolOverflow_of_stageOk {i : Instr} {c : ErrorCode} {e : BitVec 4} {t : State} (hstage : StageOk i s)
    (hwp : s.wp.toNat ≤ s.params.outBytes) (h : instrBody s i = .raised c e t) : c ≠ .symbolOverflow := by
  obtain ⟨-, hscan, -, -, -, -, hzblk, -⟩ := hstage
  cases i
  case chk => rw [eq_invalidArguments_of_checkArguments_raised h]; decide
  case wsoi | wapp0 | wdqt0 | wdqt1 | wsof0 | wdht0 | wdht1 | wdht2 | wdht3 | wsos | weoi =>
    rw [eq_encodingError_of_emitBytes_raised hwp h]
    decide
  case hdc =>
    obtain ⟨-, hpred, hclean⟩ := hscan (by decide)
    obtain ⟨rfl, -⟩ := eq_overflow_of_codeDc_raised hclean hwp (dcDiff_coded (hzblk (.inl rfl)) hpred) h
    decide
  case hac =>
    obtain ⟨-, -, hclean⟩ := hscan (by decide)
    obtain ⟨rfl, -⟩ := eq_overflow_of_codeAc_raised hclean hwp (acCoefs_coded (hzblk (.inr rfl))) h
    decide
  case flush =>
    obtain ⟨-, -, hclean⟩ := hscan (by decide)
    rw [eq_encodingError_of_padBits_raised hclean hwp h]
    decide
  case nop | start | init | qtgen | csc | blkld | fdct | quant | zz | fin => cases h

theorem WriterFrame.err {t : State} (h : WriterFrame s t) : t.err = s.err := by
  rw [show t = _ from h]

/-- While BUSY no instruction that completes writes ERR: START, which would, is refused (spec/40_driver.md R132). -/
theorem instrBody_err {i : Instr} {t : State} (hbusy : s.phase = .busy) (h : instrBody s i = .done t) :
    t.err = s.err := by
  have hwriter (hframe : WriterFrame s (instrBody s i).endState) : t.err = s.err := by
    rw [h] at hframe
    exact hframe.err
  cases i
  case start =>
    rw [instrBody, if_pos hbusy] at h
    cases h
    rfl
  case chk =>
    have hend := checkArguments_endState s
    rw [show checkArguments s = .done t from h, endState_done] at hend
    rw [hend]
  case hdc =>
    obtain ⟨u, hput, rfl⟩ := codeDc_eq_done h
    have hframe := writerFrame_putBitList (dcBits (tabOf s.bi) (dcDiff s)) s
    rw [hput] at hframe
    exact hframe.err
  case hac => exact hwriter (writerFrame_codeAc _ _ 0 s)
  case flush => exact hwriter (writerFrame_padBits s)
  case wsoi | wapp0 | wdqt0 | wdqt1 | wsof0 | wdht0 | wdht1 | wdht2 | wdht3 | wsos | weoi =>
    exact hwriter (writerFrame_emitBytes _ s)
  case nop | init | qtgen | csc | blkld | fdct | quant | zz | fin => cases h; rfl

/-- While BUSY an instruction leaves ERR alone, or it enters ERROR by what its body raises. -/
theorem exec_err_or_raised {i : Instr} {t : State} (hbusy : s.phase = .busy) (h : exec i s = .next t) :
    t.err = s.err ∨ ∃ c e u, instrBody s i = .raised c e u ∧ t = enterError i c e u := by
  refine (exec_next_cases h).imp_left fun ⟨u, hbody, hadvance⟩ => ?_
  have herr : t.err = u.err := by rw [advance_frame hadvance]
  exact herr.trans (instrBody_err hbusy hbody)

/-- While BUSY an access that is settled at once leaves ERR alone, and RESET clears it. -/
theorem err_of_settle {e : Event} {t : State} (hbusy : s.phase = .busy) (h : eventAction e s = .settle t) :
    t.err = s.err ∨ t.err = 0 := by
  cases e with
  | core =>
    rw [eventAction, coreAction, if_pos hbusy] at h
    split at h <;> cases h
  | regWrite off v =>
    rw [eventAction] at h
    split at h
    · rcases commandAction_cases v s with hrefuse | ⟨i, -, hrun⟩
      · rw [hrefuse] at h; cases h; exact .inl rfl
      · rw [hrun] at h; cases h
    · rw [hostRegWrite_of_busy hbusy] at h; cases h; exact .inl rfl
  | pixWrite a b =>
    rw [eventAction, hostPixWrite_of_ignored (.inl hbusy)] at h
    cases h
    exact .inl rfl
  | regRead off | pixRead a | outRead a => cases h; exact .inl rfl
  | reset => cases h; exact .inr rfl

/-- While BUSY, with no error recorded, a step records none, or the micro-operation that is next has raised it. -/
theorem step_err_or_raised {t : State} (hbusy : s.phase = .busy) (herr : s.err = 0) (h : step s = .next t) :
    t.err = 0 ∨ ∃ i c e u, running s = some i ∧ instrBody (coreState s) i = .raised c e u ∧ t = enterError i c e u := by
  by_cases hcore : CoreMoves s
  · cases hi : running s with
    | none =>
      rw [step_of_unused hcore hbusy hi] at h
      cases h
    | some i =>
      rw [step_of_running hcore hi] at h
      rcases exec_err_or_raised (s := coreState s) hbusy h with hkept | ⟨c, e, u, hbody, ht⟩
      · exact .inl (hkept.trans herr)
      · exact .inr ⟨i, c, e, u, rfl, hbody, ht⟩
  · obtain ⟨e, rest, hs, he⟩ := pending_of_not_coreMoves hcore
    have haction := nextAction_of_pending hs
    left
    rcases eventAction_cases he { s with sched := rest } with ⟨u, hsettle⟩ | ⟨i, hi, hrun⟩
    · rw [step_settle (haction.trans hsettle)] at h
      cases h
      exact (err_of_settle (s := { s with sched := rest }) hbusy hsettle).elim (·.trans herr) id
    · rw [step_run (haction.trans hrun)] at h
      rcases exec_err_or_raised (s := { s with sched := rest }) hbusy h with hkept | ⟨c, e, u, hbody, -⟩
      · exact hkept.trans herr
      · rcases hi with rfl | rfl <;> cases hbody
end

theorem eq_symbolOverflow_of_errorCodeBits {c : ErrorCode} (h : errorCodeBits c = 3) : c = .symbolOverflow := by
  revert h
  cases c <;> decide

/-! ### The obligations -/

/-- Settles O44: a step records what the next micro-operation raises, and the ranges of the invariant give HDC and HAC
categories that have codes. -/
theorem symbolOverflowIsUnreachable : Obligations.SymbolOverflowIsUnreachable := by
  intro s t hinv hbusy h
  obtain ⟨-, -, -, -, hwp, -, hnoError, -, hstages⟩ := hinv
  have herr : s.err = 0 := (hnoError (by rw [hbusy]; decide)).1
  rcases step_err_or_raised hbusy herr h with hzero | ⟨i, c, e, u, hi, hbody, rfl⟩
  · rw [hzero]
    decide
  · have hstage : StageOk i (coreState s) := hstages i hi
    rw [enterError_code]
    exact fun hcode => ne_symbolOverflow_of_stageOk hstage hwp hbody (eq_symbolOverflow_of_errorCodeBits hcode)

/-- Settles O36: a category is at most `n` where the magnitude is below `2 ^ n`. -/
theorem categoryBoundsTheMagnitude : Obligations.CategoryBoundsTheMagnitude := by
  intro v n
  cases n with
  | zero =>
    rw [← Nat.le_zero, cat_le_iff]
    omega
  | succ n =>
    have hle := cat_le_iff (v := v) (n := n)
    have hle' := cat_le_iff (v := v) (n := n + 1)
    rw [Nat.add_sub_cancel]
    omega

/-- Settles O39: the DC item has a code and its bytes fit, so all of it is written, and then the predictor. -/
theorem hdcCodesTheDcCoefficient : Obligations.HdcCodesTheDcCoefficient := by
  intro s hclean hcoded hroom
  obtain ⟨u, hput, hframe, hwrote⟩ := putBitList_of_room hclean hroom
  have hexec : exec .hdc s = .next ((u.setPred (compOf s.bi) s.zblk[0]).setUop .hac) := by
    rw [exec_eq_finish (by decide), instrBody, codeDc_of_coded hcoded, ← hdcBits, hput, andThen_done, finish_done,
      advance]
  refine ⟨_, hexec, hwrote, ?_⟩
  rw [show u = _ from hframe]
  rfl

/-- Settles O40: every AC item has a code and their bytes fit, so all of them are written, and then SEQ advances by the
row that BI, MX and MY select. -/
theorem hacCodesTheAcCoefficients : Obligations.HacCodesTheAcCoefficients := by
  intro s hclean hscan hcoded hroom
  obtain ⟨u, hput, hframe, hwrote⟩ := putBitList_of_room hclean hroom
  have hscan' : ScanOk u := by
    rw [show u = _ from hframe]
    exact hscan
  obtain ⟨t, ht, hadv⟩ := advanceHac_next hscan'
  have hexec : exec .hac s = .next t := by
    rw [exec_eq_finish (by decide), instrBody, codeAc_eq_hacBits hcoded, hput, finish_done, advance, ht]
  have hseq := advance_frame (i := .hac) ht
  refine ⟨t, hexec, ?_, ?_, hframe.advancesHac hadv⟩
  · rw [hseq]
    exact hwrote
  · rw [hseq, show u = _ from hframe]

/-- Settles O42: without a category that has no code, only the writer raises; with one, the items before it are written
and then SymbolOverflow is raised, unless the writer raises first. -/
theorem symbolOverflowIsRaisedExactly : Obligations.SymbolOverflowIsRaisedExactly := by
  refine ⟨fun s huncoded => ?_, fun s t hclean hwp hcoded h ht hs => ?_, fun s hclean hwp huncoded => ?_,
    fun s t hclean hwp hcoded h ht hs => ?_⟩
  · exact ⟨_, exec_hdc_of_uncoded huncoded, rfl, enterError_cause ..⟩
  · obtain ⟨c, e, u, hbody, rfl⟩ := eq_enterError_of_exec (by decide) (by decide) (by decide) h ht hs
    obtain ⟨rfl, rfl⟩ := eq_overflow_of_codeDc_raised hclean hwp hcoded hbody
    exact enterError_cause ..
  · by_cases hroom : Room s (packedBytes s (hacBitsBefore s))
    · obtain ⟨u, hexec, hframe, hwrote⟩ := exec_hac_of_uncoded_of_room hclean huncoded hroom
      exact ⟨_, hexec, hframe.enterError_eq, fun _ => ⟨enterError_cause .., hwrote⟩, fun hfull => absurd hroom hfull⟩
    · obtain ⟨u, hexec, hframe, hfilled⟩ := exec_hac_of_uncoded_of_full hclean hwp huncoded hroom
      exact ⟨_, hexec, hframe.enterError_eq, fun h => absurd h hroom, fun _ => ⟨enterError_cause .., hfilled⟩⟩
  · obtain ⟨c, e, u, hbody, rfl⟩ := eq_enterError_of_exec (by decide) (by decide) (by decide) h ht hs
    obtain ⟨rfl, rfl⟩ := eq_overflow_of_codeAc_raised hclean hwp hcoded hbody
    exact enterError_cause ..

end Sys2Proof.Machine
end

section
/-! The bitstream writer: what the marker micro-operations and FLUSH append, what a write that does not fit leaves in OUTMEM
and in ERR, the bit string that PutBits writes, and the file that the host reads in DONE (spec/47_bitstream.md). -/

namespace Sys2Proof.Machine

/-! ### The record of an overflow (spec/60_exceptions.md R285, R288) -/

theorem errWord_stage (code sub : BitVec 4) (stage : Byte) (comp : BitVec 2) (blk : BitVec 3) :
    (errWord code sub stage comp blk).extractLsb' 0 16 = stage ++ (sub ++ code) := by
  rw [errWord, BitVec.append_assoc, BitVec.cast_eq, BitVec.append_assoc, BitVec.cast_eq,
    BitVec.extractLsb'_append_eq_right]

/-- Outside a block COMP reads 3 and BLK 7. -/
theorem overflowWord_outside_block {i : Instr} (h : inBlock i = false) :
    errWord (errorCodeBits .encodingError) 1 (stageCode i) 3 7 =
      BitVec.ofNat 32 (0x001F0014 + 256 * (stageCode i).toNat) := by
  revert h
  cases i <;> decide

/-- OUTPUT_OVERFLOW outside a block: ERR names the micro-operation, ERR_INFO is 0, and nothing else is written. -/
theorem enterError_overflow_outside_block {i : Instr} (h : inBlock i = false) (s : State) :
    enterError i .encodingError 1 s = { s with
      phase := .error, err := BitVec.ofNat 32 (0x001F0014 + 256 * (stageCode i).toNat), errInfo := 0 } := by
  simp only [enterError, h, Bool.false_eq_true, if_false, overflowWord_outside_block h]

/-! ### Bytes that do not fit (spec/47_bitstream.md R245) -/

/-- `t` has filled OUTMEM up to OUT_BYTES with those of the bytes that fit. -/
abbrev FilledWith (s t : State) (bytes : List Byte) : Prop :=
  t.wp.toNat = s.params.outBytes ∧ Appended s t (bytes.take (s.params.outBytes - s.wp.toNat))

section
variable {s : State}

theorem filledWith_appendList {bytes : List Byte} (hwp : s.wp.toNat ≤ s.params.outBytes) (hfull : ¬ Room s bytes) :
    FilledWith s (s.appendList (bytes.take (s.params.outBytes - s.wp.toNat))) bytes := by
  have hlen : (bytes.take (s.params.outBytes - s.wp.toNat)).length = s.params.outBytes - s.wp.toNat :=
    List.length_take_of_le (by omega)
  obtain ⟨hend, hnew⟩ := appended_appendList (s := s) (bs := bytes.take (s.params.outBytes - s.wp.toNat)) (by omega)
  exact ⟨hend.trans (by omega), hend, hnew⟩

/-- The DC item of a block has a code but no room. -/
theorem exec_hdc_of_full (hclean : BitsClean s) (hwp : s.wp.toNat ≤ s.params.outBytes) (hcoded : cat (dcDiff s) ≤ 11)
    (hfull : ¬ Room s (packedBytes s (hdcBits s))) :
    ∃ u, exec .hdc s = .next (enterError .hdc .encodingError 1 u) ∧ WriterFrame s u ∧
      FilledWith s u (packedBytes s (hdcBits s)) := by
  obtain ⟨u, hraised, hfilled⟩ := putBitList_of_full hclean hwp hfull
  exact ⟨u, by rw [exec_eq_finish (by decide), instrBody, codeDc_of_coded hcoded, ← hdcBits, hraised, andThen_raised,
    finish_raised], hfilled⟩

/-- The AC items of a block have codes but no room. -/
theorem exec_hac_of_full (hclean : BitsClean s) (hwp : s.wp.toNat ≤ s.params.outBytes)
    (hcoded : ∀ v ∈ acCoefs s, cat v.toInt ≤ 10) (hfull : ¬ Room s (packedBytes s (hacBits s))) :
    ∃ u, exec .hac s = .next (enterError .hac .encodingError 1 u) ∧ WriterFrame s u ∧
      FilledWith s u (packedBytes s (hacBits s)) := by
  obtain ⟨u, hraised, hfilled⟩ := putBitList_of_full hclean hwp hfull
  exact ⟨u, by rw [exec_eq_finish (by decide), instrBody, codeAc_eq_hacBits hcoded, hraised, finish_raised], hfilled⟩

/-! ### The marker micro-operations (spec/47_bitstream.md R250 to R260) -/

section
variable {i : Instr} {bytes : List Byte}

theorem inBlock_of_segment (h : segmentBytes s i = some bytes) : inBlock i = false := by
  cases i <;> cases h <;> rfl

/-- After a marker micro-operation SEQ goes on to the one that R138 names. -/
theorem advance_of_segment (h : segmentBytes s i = some bytes) :
    ∃ j, nextInOrder i = some j ∧ ∀ u, advance i u = .next (u.setUop j) := by
  cases i <;> cases h <;> exact ⟨_, rfl, fun _ => rfl⟩

theorem exec_of_segment (h : segmentBytes s i = some bytes) : exec i s = finish i (emitBytes bytes s) := by
  have hcsc : i ≠ .csc := by
    rintro rfl
    cases h
  rw [exec_eq_finish hcsc, instrBody_of_segment h]

end

/-! ### FLUSH (spec/47_bitstream.md R247) -/

theorem stuffed_eq (b : Byte) : stuffed b = if b = 0xFF then [0xFF, 0x00] else [b] := by
  unfold stuffed
  split
  next h => rw [h]
  · rfl

/-- The low `n` bits of `2 ^ m - 1` are all 1. -/
theorem bitsOf_ones {n m : Nat} (h : n ≤ m) : bitsOf (2 ^ m - 1) n = List.replicate n true := by
  induction n with
  | zero => rfl
  | succ n ih => rw [bitsOf, ih (by omega), Nat.testBit_two_pow_sub_one, decide_eq_true (by omega), List.replicate_succ]

/-- Bits that complete exactly one byte: the byte, and its stuffing, are emitted. -/
theorem putBitList_completes {acc bits : List Bool} (s : State) (hacc : acc.length < 8)
    (h : acc.length + bits.length = 8) :
    putBitList bits (s.withPending acc) =
      emitStuffed (BitVec.ofNat 8 (natOfBits (acc ++ bits))) (s.setBits (BitVec.ofNat 8 (natOfBits (acc ++ bits))) 0) := by
  induction bits generalizing acc with
  | nil => exact absurd h (Nat.ne_of_lt hacc)
  | cons b bits ih =>
    rw [List.length_cons] at h
    rw [putBitList, putBit_withPending b acc s hacc]
    by_cases hlast : acc.length + 1 = 8
    · obtain rfl : bits = [] := List.eq_nil_of_length_eq_zero (by omega)
      rw [if_pos hlast]
      exact andThen_pure _
    · have hlen : (acc ++ [b]).length = acc.length + 1 := List.length_append
      rw [if_neg hlast, andThen_done, ih (by omega) (by omega), List.append_assoc, List.singleton_append]

/-- The pending bits, filled up to a byte with 1 bits. -/
def paddedByte (s : State) : Byte :=
  BitVec.ofNat 8 (natOfBits (pendingBits s ++ List.replicate (8 - s.bitcnt.val) true))

theorem padBits_of_empty (h : s.bitcnt = 0) : padBits s = .done s := by
  rw [padBits, h]
  rfl

theorem padBits_of_pending (hclean : BitsClean s) (h : s.bitcnt ≠ 0) :
    padBits s = emitStuffed (paddedByte s) (s.setBits (paddedByte s) 0) := by
  have hpos : 0 < s.bitcnt.val := Fin.pos_iff_ne_zero.mpr h
  have hlen : (pendingBits s).length = s.bitcnt.val := bitsOf_length _ _
  have hbits := putBitList_completes (bits := List.replicate (8 - s.bitcnt.val) true) s (pendingBits_length_lt s)
    (by rw [hlen, List.length_replicate]; omega)
  rw [withPending_pendingBits hclean] at hbits
  rw [padBits, if_pos hpos, putBits_eq_list, bitsOf_ones (Nat.le_refl _), hbits, paddedByte]

/-- A completed byte that does not fit with its stuffing raises OUTPUT_OVERFLOW, wherever WP is. -/
theorem emitStuffed_of_full (b x : Byte) (hfull : ¬ Room s (stuffed b)) :
    ∃ u, emitStuffed b (s.setBits x 0) = .raised .encodingError 1 u ∧ WriterFrame s u ∧
      (s.wp.toNat ≤ s.params.outBytes → FilledWith s u (stuffed b)) := by
  by_cases hwp : s.wp.toNat ≤ s.params.outBytes
  · exact ⟨_, emitStuffed_setBits_full b x hwp hfull, rfl, fun _ => filledWith_appendList hwp hfull⟩
  · have hraised : emitByte b (s.setBits x 0) = .raised .encodingError 1 (s.setBits x 0) :=
      emitByte_of_full (s := s.setBits x 0) (Nat.le_of_not_le hwp) b
    exact ⟨s.setBits x 0, by rw [emitStuffed, hraised, andThen_raised, andThen_raised], rfl, fun h => absurd h hwp⟩

end

/-! ### The bit string that PutBits writes (spec/30_encoding.md R112, spec/47_bitstream.md R246) -/

/-- A byte made of eight bits gives them back. -/
theorem bitsOf_ofNat_natOfBits {bits : List Bool} (h : bits.length = 8) :
    bitsOf (BitVec.ofNat 8 (natOfBits bits)).toNat 8 = bits := by
  rw [BitVec.toNat_ofNat, bitsOf_mod _ _ _ (Nat.le_refl 8), ← h, bitsOf_natOfBits]

/-- The packed bytes are stuffed bytes, which with the rest are the bits again. -/
theorem packBits_unstuffed (acc bits : List Bool) :
    ∃ bs : List Byte, (packBits acc bits).1 = bs.flatMap stuffed ∧
      (bs.flatMap fun b => bitsOf b.toNat 8) ++ (packBits acc bits).2 = acc ++ bits := by
  induction bits generalizing acc with
  | nil => exact ⟨[], rfl, (List.append_nil acc).symm⟩
  | cons b bits ih =>
    unfold packBits
    split
    next h8 =>
      obtain ⟨bs, hbytes, hbits⟩ := ih []
      have hlen : (acc ++ [b]).length = 8 := List.length_append.trans h8
      refine ⟨BitVec.ofNat 8 (natOfBits (acc ++ [b])) :: bs, by rw [hbytes, List.flatMap_cons], ?_⟩
      rw [List.flatMap_cons, bitsOf_ofNat_natOfBits hlen, List.append_assoc, hbits, List.nil_append, List.append_assoc,
        List.singleton_append]
    next =>
      obtain ⟨bs, hbytes, hbits⟩ := ih (acc ++ [b])
      exact ⟨bs, hbytes, by rw [hbits, List.append_assoc, List.singleton_append]⟩

/-- PutBits completes only where its bytes fit. -/
theorem wroteBits_of_putBits {s t : State} {v n : Nat} (hclean : BitsClean s) (hwp : s.wp.toNat ≤ s.params.outBytes)
    (h : putBits v n s = .done t) : WriterFrame s t ∧ WroteBits s t (bitsOf v n) := by
  rw [putBits_eq_list] at h
  by_cases hroom : Room s (packedBytes s (bitsOf v n))
  · obtain ⟨u, hput, hframe, hwrote⟩ := putBitList_of_room hclean hroom
    cases h.symm.trans hput
    exact ⟨hframe, hwrote⟩
  · obtain ⟨u, hraised, -⟩ := putBitList_of_full hclean hwp hroom
    cases h.symm.trans hraised

/-! ### The file in DONE (spec/20_memory.md R67) -/

/-- In DONE OUT_LEN is WP, and every byte below it is the one in OUTMEM. -/
theorem host_reads_file {s : State} (hinv : Inv s) (hdone : s.phase = .done) :
    (outLen s).toNat = s.wp.toNat ∧ ∀ a, a < s.wp.toNat → outReadValue s a = outByte s a := by
  obtain ⟨-, -, -, -, hwp, -⟩ := hinv
  exact ⟨by rw [outLen, if_pos hdone], fun a ha => outReadValue_of_below hdone ha (Nat.lt_of_lt_of_le ha hwp)⟩

/-! ### The obligations -/

/-- Settles O43: the items have codes, so the writer alone raises, and it has filled OUTMEM. -/
theorem entropyOverflowIsAnError : Obligations.EntropyOverflowIsAnError := by
  refine ⟨fun s hclean hwp hcoded hfull => ?_, fun s hclean hwp hcoded hfull => ?_⟩
  · obtain ⟨u, hexec, hframe, hfilled⟩ := exec_hdc_of_full hclean hwp hcoded hfull
    exact ⟨_, hexec, hframe.enterError_eq, errWord_stage .., hfilled⟩
  · obtain ⟨u, hexec, hframe, hfilled⟩ := exec_hac_of_full hclean hwp hcoded hfull
    exact ⟨_, hexec, hframe.enterError_eq, errWord_stage .., hfilled⟩

/-- Settles O45: with room for the whole segment no EmitByte raises, and SEQ then advances. -/
theorem markersAppendTheirSegments : Obligations.MarkersAppendTheirSegments := by
  intro i s bytes hsegment hroom
  obtain ⟨j, hj, hadvance⟩ := advance_of_segment hsegment
  have hemit : emitBytes bytes s = .done (s.appendList bytes) := by
    rw [emitBytes_spec bytes s (Nat.le_trans (Nat.le_add_right _ _) hroom), if_pos hroom]
  have hexec : exec i s = .next ((s.appendList bytes).setUop j) := by
    rw [exec_of_segment hsegment, hemit, finish_done, hadvance]
  exact ⟨_, j, hexec, hj, appended_appendList hroom, rfl⟩

/-- Settles O47: the bytes that fit are appended before the EmitByte that raises. -/
theorem markerOverflowIsAnError : Obligations.MarkerOverflowIsAnError := by
  intro i s bytes hsegment hwp hfull
  have hfilled := filledWith_appendList hwp hfull
  have hexec := exec_of_segment hsegment
  rw [emitBytes_spec bytes s hwp, if_neg hfull, finish_raised,
    enterError_overflow_outside_block (inBlock_of_segment hsegment)] at hexec
  exact ⟨_, hexec, rfl, hfilled⟩

/-- Settles O48: the padding completes exactly one byte, which is emitted like any other completed byte. -/
theorem flushPadsWithOnes : Obligations.FlushPadsWithOnes := by
  intro s hclean
  have hexec : exec .flush s = finish .flush (padBits s) := rfl
  refine ⟨fun hempty => ?_, fun hpending => ?_⟩
  · rw [hexec, padBits_of_empty hempty]
    rfl
  rw [hexec, padBits_of_pending hclean hpending, ← paddedByte]
  simp only [← stuffed_eq]
  refine ⟨fun hroom => ?_, fun hfull => ?_⟩
  · rw [emitStuffed_setBits_room _ _ hroom]
    exact ⟨_, rfl, appended_appendList hroom, rfl⟩
  · obtain ⟨u, hraised, hframe, hfilled⟩ := emitStuffed_of_full (paddedByte s) (paddedByte s) hfull
    rw [hraised, finish_raised, enterError_overflow_outside_block rfl]
    refine ⟨_, rfl, ?_, hfilled⟩
    rw [show u = _ from hframe]
    rfl

/-- Settles O49: the bytes that the bit string completes are stuffed one by one, and the rest of it is pending. -/
theorem writerStuffsEveryFf : Obligations.WriterStuffsEveryFf := by
  intro s t v n hclean hput hwp
  obtain ⟨hframe, happ, hpending, -⟩ := wroteBits_of_putBits hclean hwp hput
  obtain ⟨bs, hbytes, hbits⟩ := packBits_unstuffed (pendingBits s) (bitsOf v n)
  refine ⟨bs, ?_, by rw [hpending, packedRest, hbits], hframe⟩
  simp only [← stuffed_eq]
  rwa [packedBytes, hbytes] at happ

/-- Settles O54: what the host reads below OUT_LEN is the file that the invariant describes. -/
theorem doneFileIsWellFormed : Obligations.DoneFileIsWellFormed := by
  intro s hinv hfile hdone
  obtain ⟨hlen, hread⟩ := host_reads_file hinv hdone
  obtain ⟨-, hfileOk⟩ := hfile
  obtain ⟨hsize, hff, hd8, hstuffed, heoiff, hd9⟩ := hfileOk hdone
  rw [hlen]
  refine ⟨hsize, (hread _ (by omega)).trans hff, (hread _ (by omega)).trans hd8, (hread _ (by omega)).trans heoiff,
    (hread _ (by omega)).trans hd9, fun a hlo ha hbyte => ?_⟩
  rw [hread a (by omega)] at hbyte
  obtain ⟨hnext, hzero⟩ := hstuffed a ha hlo hbyte
  exact ⟨hnext, (hread _ (by omega)).trans hzero⟩

end Sys2Proof.Machine
end

section
/-! RESET, error entry and the transitions of STATE: the causes that each micro-operation can raise, the fields of the error
record, and who writes STATE (spec/60_exceptions.md, spec/70_reset_and_hazards.md). -/

namespace Sys2Proof.Machine

/-! ### What the host sees outside DONE (spec/20_memory.md R67) -/

theorem output_hidden {s : State} (h : s.phase ≠ .done) : outLen s = 0 ∧ ∀ a, outReadValue s a = 0x00 :=
  ⟨outLen_of_phase_ne_done h, fun _ => outReadValue_of_gated (.inl h)⟩

/-- After RESET the host reads STATUS as 0 (spec/70_reset_and_hazards.md R310). -/
theorem statusWord_assertReset (s : State) : statusWord (assertReset s) = 0 := by
  rw [statusWord, statusUop, assertReset_phase, if_neg (by decide), assertReset_badcmd]
  decide

/-! ### Causes of an error (spec/60_exceptions.md R281, R284) -/

/-- What an attempt raises, if it raises anything, is one of the listed causes. -/
def Attempt.RaisesIn (causes : List (ErrorCode × BitVec 4)) (r : Attempt) : Prop :=
  ∀ c e t, r = .raised c e t → (c, e) ∈ causes

section
variable {causes : List (ErrorCode × BitVec 4)}

theorem raisesIn_done (s : State) : (Attempt.done s).RaisesIn causes := nofun

theorem raisesIn_raised {c : ErrorCode} {e : BitVec 4} (h : (c, e) ∈ causes) (s : State) :
    (Attempt.raised c e s).RaisesIn causes := by
  rintro _ _ _ ⟨⟩
  exact h

theorem raisesIn_andThen {r : Attempt} {f : State → Attempt} (hr : r.RaisesIn causes)
    (hf : ∀ s, (f s).RaisesIn causes) : (r.andThen f).RaisesIn causes := fun c e t h => by
  rcases andThen_eq_raised.mp h with hraised | ⟨s, -, hraised⟩
  · exact hr c e t hraised
  · exact hf s c e t hraised

/-! The writer raises OUTPUT_OVERFLOW only (spec/47_bitstream.md R245). -/

theorem emitByte_raisesIn (h : (.encodingError, 1) ∈ causes) (b : Byte) (s : State) : (emitByte b s).RaisesIn causes := by
  unfold emitByte
  split
  · exact raisesIn_raised h s
  · exact raisesIn_done _

theorem emitBytes_raisesIn (h : (.encodingError, 1) ∈ causes) (bs : List Byte) (s : State) :
    (emitBytes bs s).RaisesIn causes := by
  induction bs generalizing s with
  | nil => exact raisesIn_done s
  | cons b bs ih => exact raisesIn_andThen (emitByte_raisesIn h b s) ih

theorem emitStuffed_raisesIn (h : (.encodingError, 1) ∈ causes) (b : Byte) (s : State) :
    (emitStuffed b s).RaisesIn causes := by
  refine raisesIn_andThen (raisesIn_andThen (emitByte_raisesIn h b s) fun t => ?_) fun t => raisesIn_done _
  split
  · exact emitByte_raisesIn h 0x00 t
  · exact raisesIn_done t

theorem putBitList_raisesIn (h : (.encodingError, 1) ∈ causes) (bits : List Bool) (s : State) :
    (putBitList bits s).RaisesIn causes := by
  induction bits generalizing s with
  | nil => exact raisesIn_done s
  | cons b bits ih =>
    refine raisesIn_andThen ?_ ih
    unfold putBit
    dsimp only
    split
    · exact emitStuffed_raisesIn h _ _
    · exact raisesIn_done _

theorem padBits_raisesIn (h : (.encodingError, 1) ∈ causes) (s : State) : (padBits s).RaisesIn causes := by
  unfold padBits
  split
  · rw [putBits_eq_list]
    exact putBitList_raisesIn h _ s
  · exact raisesIn_done s

theorem codeDc_raisesIn (hfull : (.encodingError, 1) ∈ causes) (huncoded : (.symbolOverflow, 1) ∈ causes) (s : State) :
    (codeDc s).RaisesIn causes := by
  by_cases hcoded : cat (dcDiff s) ≤ 11
  · rw [codeDc_of_coded hcoded]
    exact raisesIn_andThen (putBitList_raisesIn hfull _ s) fun t => raisesIn_done _
  · rw [codeDc_of_uncoded (Nat.not_le.mp hcoded)]
    exact raisesIn_raised huncoded s

theorem codeAc_raisesIn (hfull : (.encodingError, 1) ∈ causes) (huncoded : (.symbolOverflow, 2) ∈ causes) (t : Fin 2)
    (vs : List Coef) (r : Nat) (s : State) : (codeAc t vs r s).RaisesIn causes := by
  by_cases hcoded : ∀ v ∈ vs, cat v.toInt ≤ 10
  · rw [codeAc_of_coded t vs r s hcoded]
    exact putBitList_raisesIn hfull _ s
  · rw [codeAc_of_uncoded t vs r s (by simpa using hcoded)]
    exact raisesIn_andThen (putBitList_raisesIn hfull _ s) fun u => raisesIn_raised huncoded u
end

theorem checkArguments_raisesIn (s : State) : (checkArguments s).RaisesIn
    [(.invalidArguments, 1), (.invalidArguments, 2), (.invalidArguments, 3), (.invalidArguments, 4)] := by
  unfold checkArguments
  repeat' split
  case isFalse.isFalse.isFalse.isFalse => exact raisesIn_done s
  all_goals exact raisesIn_raised (by decide) s

/-- CODE and SUB of the errors that an instruction can raise: those of CHK's four checks, SymbolOverflow of HDC and HAC, and
OUTPUT_OVERFLOW of everything that writes to OUTMEM (spec/60_exceptions.md R281, R284, R285). -/
def raisableCauses : Instr → List (ErrorCode × BitVec 4)
  | .chk => [(.invalidArguments, 1), (.invalidArguments, 2), (.invalidArguments, 3), (.invalidArguments, 4)]
  | .hdc => [(.symbolOverflow, 1), (.encodingError, 1)]
  | .hac => [(.symbolOverflow, 2), (.encodingError, 1)]
  | .wsoi | .wapp0 | .wdqt0 | .wdqt1 | .wsof0 | .wdht0 | .wdht1 | .wdht2 | .wdht3 | .wsos | .weoi | .flush =>
    [(.encodingError, 1)]
  | .nop | .start | .init | .qtgen | .csc | .blkld | .fdct | .quant | .zz | .fin => []

theorem instrBody_raisesIn (s : State) (i : Instr) : (instrBody s i).RaisesIn (raisableCauses i) := by
  cases i
  case chk => exact checkArguments_raisesIn s
  case hdc => exact codeDc_raisesIn (by decide) (by decide) s
  case hac => exact codeAc_raisesIn (by decide) (by decide) _ _ 0 s
  case flush => exact padBits_raisesIn (by decide) s
  case wsoi | wapp0 | wdqt0 | wdqt1 | wsof0 | wdht0 | wdht1 | wdht2 | wdht3 | wsos | weoi =>
    exact emitBytes_raisesIn (by decide) _ s
  case nop | start | init | qtgen | csc | blkld | fdct | quant | zz | fin => exact raisesIn_done _

/-- What was written before an error was raised: bytes and bits of the output, and nothing else (spec/00_scope.md R6). -/
theorem instrBody_raised_frame {i : Instr} {c : ErrorCode} {e : BitVec 4} {s u : State}
    (h : instrBody s i = .raised c e u) : WriterFrame s u := by
  have hwriter (hframe : WriterFrame s (instrBody s i).endState) : WriterFrame s u := by
    rwa [h] at hframe
  cases i
  case chk =>
    have hend := checkArguments_endState s
    rw [show checkArguments s = .raised c e u from h, endState_raised] at hend
    rw [hend]
    exact .refl s
  case hdc =>
    have hraised : codeDc s = .raised c e u := h
    by_cases hcoded : cat (dcDiff s) ≤ 11
    · rw [codeDc_of_coded hcoded, andThen_eq_raised] at hraised
      rcases hraised with hput | ⟨t, -, hpred⟩
      · have hframe := writerFrame_putBitList (dcBits (tabOf s.bi) (dcDiff s)) s
        rwa [hput] at hframe
      · cases hpred
    · rw [codeDc_of_uncoded (Nat.not_le.mp hcoded)] at hraised
      cases hraised
      exact .refl s
  case hac => exact hwriter (writerFrame_codeAc _ _ 0 s)
  case flush => exact hwriter (writerFrame_padBits s)
  case wsoi | wapp0 | wdqt0 | wdqt1 | wsof0 | wdht0 | wdht1 | wdht2 | wdht3 | wsos | weoi =>
    exact hwriter (writerFrame_emitBytes _ s)
  case nop | start | init | qtgen | csc | blkld | fdct | quant | zz | fin => cases h

/-! ### The fields of the error record (spec/10_state.md R29, R30, spec/60_exceptions.md R288) -/

/-- SUB and CODE as the low byte of ERR. -/
def causeByte (cause : ErrorCode × BitVec 4) : Byte := cause.2 ++ errorCodeBits cause.1

theorem enterError_causeByte (i : Instr) (c : ErrorCode) (e : BitVec 4) (s : State) :
    (enterError i c e s).err.extractLsb' 0 8 = causeByte (c, e) := enterError_cause i c e s

/-- The low bytes of ERR that each micro-operation can record (spec/60_exceptions.md R281, R285). -/
theorem causeByte_of_raisable {i : Instr} {cause : ErrorCode × BitVec 4} (h : cause ∈ raisableCauses i) :
    (i = .chk ∧ causeByte cause ∈ ([0x11, 0x21, 0x31, 0x41] : List Byte)) ∨
      (i = .hdc ∧ causeByte cause ∈ ([0x13, 0x14] : List Byte)) ∨
      (i = .hac ∧ causeByte cause ∈ ([0x23, 0x14] : List Byte)) ∨
      (i ∈ [.wsoi, .wapp0, .wdqt0, .wdqt1, .wsof0, .wdht0, .wdht1, .wdht2, .wdht3, .wsos, .flush, .weoi] ∧
        causeByte cause = 0x14) := by
  revert cause
  cases i <;> decide

/-- ERR bit by bit (spec/10_state.md R29). -/
theorem errWord_getLsbD (code sub : BitVec 4) (stage : Byte) (comp : BitVec 2) (blk : BitVec 3) (k : Nat) :
    (errWord code sub stage comp blk).getLsbD k =
      if k < 4 then code.getLsbD k
      else if k < 8 then sub.getLsbD (k - 4)
      else if k < 16 then stage.getLsbD (k - 8)
      else if k < 18 then comp.getLsbD (k - 16)
      else blk.getLsbD (k - 18) := by
  simp only [errWord, BitVec.getLsbD_append]
  grind

/-- STAGE, COMP and BLK, each in its place, and 0 above them. -/
theorem errWord_fields (code sub : BitVec 4) (stage : Byte) (comp : BitVec 2) (blk : BitVec 3) :
    (errWord code sub stage comp blk).extractLsb' 8 8 = stage ∧
    (errWord code sub stage comp blk).extractLsb' 16 2 = comp ∧
    (errWord code sub stage comp blk).extractLsb' 18 3 = blk ∧
    (errWord code sub stage comp blk).extractLsb' 21 11 = 0 := by
  refine ⟨?_, ?_, ?_, ?_⟩
  all_goals
    apply BitVec.eq_of_getLsbD_eq
    intro k hk
    rw [BitVec.getLsbD_extractLsb', errWord_getLsbD]
    grind

theorem errInfoWord_toNat (mx my : BitVec 12) : (errInfoWord mx my).toNat = my.toNat * 65536 + mx.toNat := by
  have hmx := mx.isLt
  rw [errInfoWord, BitVec.toNat_append, BitVec.toNat_append, BitVec.toNat_append,
    ← Nat.shiftLeft_add_eq_or_of_lt (by omega), ← Nat.shiftLeft_add_eq_or_of_lt (by simp)]
  simp [Nat.shiftLeft_eq]
  omega

/-- Inside a block the record holds the block's component, its index and its MCU (spec/40_driver.md R140). -/
theorem enterError_in_block {i : Instr} (h : inBlock i = true) (c : ErrorCode) (e : BitVec 4) (s : State) :
    (enterError i c e s).err.extractLsb' 16 2 = (if s.bi.val < 4 then 0 else if s.bi.val = 4 then 1 else 2) ∧
    (enterError i c e s).err.extractLsb' 18 3 = BitVec.ofNat 3 s.bi.val ∧
    (enterError i c e s).errInfo.toNat = s.my.toNat * 65536 + s.mx.toNat := by
  obtain ⟨-, hcomp, hblk, -⟩ := errWord_fields (errorCodeBits c) e (stageCode i) (BitVec.ofNat 2 (compOf s.bi).val)
    (BitVec.ofNat 3 s.bi.val)
  rw [enterError_err, enterError_errInfo, if_pos h, if_pos h, if_pos h, hcomp, hblk, errInfoWord_toNat]
  refine ⟨?_, rfl, rfl⟩
  unfold compOf
  split
  · rfl
  · split <;> rfl

/-- Outside a block COMP is 3, BLK is 7 and ERR_INFO is 0. -/
theorem enterError_outside_block {i : Instr} (h : inBlock i = false) (c : ErrorCode) (e : BitVec 4) (s : State) :
    (enterError i c e s).err.extractLsb' 16 2 = 3 ∧ (enterError i c e s).err.extractLsb' 18 3 = 7 ∧
    (enterError i c e s).errInfo = 0 := by
  obtain ⟨-, hcomp, hblk, -⟩ := errWord_fields (errorCodeBits c) e (stageCode i) 3 7
  simp only [enterError_err, enterError_errInfo, h, Bool.false_eq_true, if_false]
  exact ⟨hcomp, hblk, trivial⟩

theorem enterError_stage (i : Instr) (c : ErrorCode) (e : BitVec 4) (s : State) :
    (enterError i c e s).err.extractLsb' 8 8 = stageCode i ∧ (enterError i c e s).err.extractLsb' 21 11 = 0 := by
  rw [enterError_err]
  obtain ⟨hstage, -, -, htop⟩ := errWord_fields (errorCodeBits c) e (stageCode i)
    (if inBlock i then BitVec.ofNat 2 (compOf s.bi).val else 3) (if inBlock i then BitVec.ofNat 3 s.bi.val else 7)
  exact ⟨hstage, htop⟩

/-! ### Who writes STATE (spec/70_reset_and_hazards.md R319) -/

/-- While BUSY NOP changes nothing, START is refused, and FIN ends in DONE: none of them enters ERROR. -/
theorem ne_of_enters_error {i : Instr} {s t : State} (hbusy : s.phase = .busy) (h : exec i s = .next t)
    (ht : t.phase = .error) : i ≠ .nop ∧ i ≠ .start ∧ i ≠ .fin := by
  refine ⟨?_, ?_, ?_⟩ <;> rintro rfl
  · cases h
    cases hbusy.symm.trans ht
  · change execStart s = .next t at h
    rw [execStart, if_pos hbusy] at h
    cases h
    cases hbusy.symm.trans ht
  · cases h
    cases ht

/-- A micro-operation is not a host command: the two code spaces are apart (spec/30_encoding.md R91, R92). -/
theorem ne_command_of_running {s : State} {i : Instr} (h : running s = some i) : i ≠ .nop ∧ i ≠ .start := by
  obtain ⟨-, hdecode⟩ := running_eq_some_iff.mp h
  have hcode := encode_of_decodeUop hdecode
  constructor <;> rintro rfl <;> cases hcode

/-- A micro-operation that changes STATE is FIN, or it has entered ERROR. -/
theorem exec_phase {i : Instr} {s t : State} (hi : running s = some i) (h : exec i s = .next t) :
    t.phase = .busy ∧ i ≠ .fin ∨ t.phase = .done ∧ i = .fin ∨ t.phase = .error := by
  obtain ⟨hbusy, -⟩ := running_eq_some_iff.mp hi
  obtain ⟨hnop, hstart⟩ := ne_command_of_running hi
  rcases exec_next_cases h with ⟨u, hbody, hadvance⟩ | ⟨c, e, u, -, rfl⟩
  · have hphase : t.phase = u.phase := by rw [advance_frame hadvance]
    by_cases hfin : i = .fin
    · subst hfin
      cases hbody
      exact .inr (.inl ⟨hphase, rfl⟩)
    · exact .inl ⟨hphase.trans ((instrBody_phase hnop hstart hfin hbody).trans hbusy), hfin⟩
  · exact .inr (.inr rfl)

theorem writeConfig_phase (s : State) (off : BitVec 12) (v : Word) : (writeConfig s off v).phase = s.phase := by
  unfold writeConfig
  repeat' split
  all_goals rfl

/-- Of the events that are settled at once only RESET writes STATE. -/
theorem phase_of_settle {e : Event} {s t : State} (hcore : e ≠ .core) (hreset : e ≠ .reset)
    (h : eventAction e s = .settle t) : t.phase = s.phase := by
  cases e with
  | core => exact absurd rfl hcore
  | reset => exact absurd rfl hreset
  | regWrite off v =>
    rw [eventAction] at h
    split at h
    · rcases commandAction_cases v s with hrefuse | ⟨i, -, hrun⟩
      · rw [hrefuse] at h; cases h; rfl
      · rw [hrun] at h; cases h
    · cases h
      unfold hostRegWrite
      split
      · exact writeConfig_phase s off v
      · rfl
  | pixWrite a b =>
    cases h
    unfold hostPixWrite
    split <;> rfl
  | regRead off | pixRead a | outRead a => cases h; rfl

/-- START runs on the host's write of its word to CMD, and on no other event but the CORE's. -/
theorem eq_start_of_run {e : Event} {s s' : State} (hcore : e ≠ .core) (h : eventAction e s = .run .start s') :
    e = .regWrite 0x00 0x00000001 := by
  cases e with
  | core => exact absurd rfl hcore
  | regWrite off w =>
    rw [eventAction] at h
    split at h
    next hoff =>
      unfold commandAction at h
      split at h
      next i hdecode =>
        cases h
        cases encode_of_decodeCommand hdecode
        rw [hoff]
        rfl
      · cases h
    · cases h
  | regRead off | pixWrite a b | pixRead a | outRead a | reset => cases h

/-- START changes STATE only where it is accepted (spec/40_driver.md R131). -/
theorem execStart_phase {s t : State} (h : exec .start s = .next t) (hphase : t.phase ≠ s.phase) :
    t.phase = .busy ∧ s.phase ≠ .busy := by
  change execStart s = .next t at h
  unfold execStart at h
  split at h
  · cases h
    exact absurd rfl hphase
  next hidle =>
    cases h
    exact ⟨rfl, hidle⟩

/-! ### The obligations -/

/-- Settles O6: the event is settled at once by the writes of R310, and IDLE shows nothing of OUTMEM. -/
theorem resetEventSetsResetValues : Obligations.ResetEventSetsResetValues := by
  intro s rest hs
  have hidle : (assertReset { s with sched := rest }).phase ≠ .busy := by simp
  obtain ⟨hlen, hread⟩ := output_hidden (s := assertReset { s with sched := rest }) (by simp)
  refine ⟨_, step_settle (nextAction_of_pending hs), rfl, fun c => ?_, statusWord_assertReset _, hlen, hread,
    running_of_phase_ne_busy hidle⟩
  simp

/-- Settles O13: by who moves; the CORE's step by what the micro-operation comes to, the host's by the event. -/
theorem stateTransitions : Obligations.StateTransitions := by
  intro s t h hphase
  by_cases hcore : CoreMoves s
  · by_cases hbusy : s.phase = .busy
    · cases hi : running s with
      | none =>
        rw [step_of_unused hcore hbusy hi] at h
        cases h
      | some i =>
        rw [step_of_running hcore hi] at h
        rcases exec_phase (s := coreState s) hi h with ⟨hkept, -⟩ | ⟨hdone, rfl⟩ | herror
        · exact absurd (hkept.trans hbusy.symm) hphase
        · exact .inr (.inl ⟨hdone, hbusy, hcore, rfl⟩)
        · exact .inr (.inr (.inl ⟨herror, hbusy, hcore⟩))
    · rw [step_of_coreMoves_of_not_busy hcore hbusy] at h
      cases h
      exact absurd rfl hphase
  · obtain ⟨e, rest, hs, he⟩ := pending_of_not_coreMoves hcore
    have haction := nextAction_of_pending hs
    rcases eventAction_cases he { s with sched := rest } with ⟨u, hsettle⟩ | ⟨i, hi, hrun⟩
    · rw [step_settle (haction.trans hsettle)] at h
      cases h
      by_cases hreset : e = .reset
      · subst hreset
        cases hsettle
        exact .inr (.inr (.inr ⟨rfl, by rw [hs]; rfl⟩))
      · exact absurd (phase_of_settle he hreset hsettle) hphase
    · rw [step_run (haction.trans hrun)] at h
      rcases hi with rfl | rfl
      · cases h
        exact absurd rfl hphase
      · obtain ⟨ht, hidle⟩ := execStart_phase h hphase
        exact .inl ⟨ht, hidle, by rw [hs, eq_start_of_run he hrun]; rfl⟩

/-- Settles O19: the body has raised one of its causes after writing at most to the bitstream, and error entry writes the
record. -/
theorem errorEntryRecordsTheContext : Obligations.ErrorEntryRecordsTheContext := by
  intro i s t hbusy h ht
  obtain ⟨hnop, hstart, hfin⟩ := ne_of_enters_error hbusy h ht
  obtain ⟨c, e, u, hbody, rfl⟩ := eq_enterError_of_exec hnop hstart hfin h ht (by rw [hbusy]; decide)
  have hframe := instrBody_raised_frame hbody
  obtain ⟨hstage, htop⟩ := enterError_stage i c e u
  refine ⟨hframe.enterError_eq, ?_, hstage, htop, fun hin => ?_, fun hout => enterError_outside_block hout c e u,
    output_hidden (by simp)⟩
  · rw [enterError_causeByte]
    exact causeByte_of_raisable (instrBody_raisesIn s i c e u hbody)
  · have hblock := enterError_in_block hin c e u
    rwa [show u.bi = s.bi by rw [show u = _ from hframe], show u.mx = s.mx by rw [show u = _ from hframe],
      show u.my = s.my by rw [show u = _ from hframe]] at hblock

end Sys2Proof.Machine
end

section
/-! Progress: each step of the CORE brings the encode one micro-operation nearer to its end, and so every encode ends
(spec/40_driver.md R133, R134, spec/70_reset_and_hazards.md R316, R318). -/

namespace Sys2Proof.Machine

/-! ### What a micro-operation that completes leaves alone -/

/-- `t` differs from `s` at most in what the datapath writes: the predictors, the buffers, QT and the output. -/
def DatapathFrame (s t : State) : Prop :=
  t = { s with
    pred := t.pred, bitacc := t.bitacc, bitcnt := t.bitcnt, wp := t.wp, mcu := t.mcu, sblk := t.sblk, fblk := t.fblk,
    qblk := t.qblk, zblk := t.zblk, qt := t.qt, outmem := t.outmem }

theorem WriterFrame.datapathFrame {s t : State} (h : WriterFrame s t) : DatapathFrame s t := by
  rw [show t = _ from h]
  rfl

/-- Only the commands, INIT and FIN write more than the datapath before SEQ advances. -/
theorem instrBody_datapathFrame {i : Instr} {s t : State} (hstart : i ≠ .start) (hinit : i ≠ .init) (hfin : i ≠ .fin)
    (h : instrBody s i = .done t) : DatapathFrame s t := by
  have hwriter (hframe : WriterFrame s (instrBody s i).endState) : DatapathFrame s t := by
    rw [h] at hframe
    exact hframe.datapathFrame
  cases i
  case start => exact absurd rfl hstart
  case init => exact absurd rfl hinit
  case fin => exact absurd rfl hfin
  case chk =>
    have hend := checkArguments_endState s
    rw [show checkArguments s = .done t from h, endState_done] at hend
    rw [hend]
    rfl
  case hdc =>
    obtain ⟨u, hput, rfl⟩ := codeDc_eq_done h
    have hframe := writerFrame_putBitList (dcBits (tabOf s.bi) (dcDiff s)) s
    rw [hput, endState_done] at hframe
    rw [show u = _ from hframe]
    rfl
  case hac => exact hwriter (writerFrame_codeAc _ _ 0 s)
  case flush => exact hwriter (writerFrame_padBits s)
  case wsoi | wapp0 | wdqt0 | wdqt1 | wsof0 | wdht0 | wdht1 | wdht2 | wdht3 | wsos | weoi =>
    exact hwriter (writerFrame_emitBytes _ s)
  case nop | qtgen | csc | blkld | fdct | quant | zz => cases h; rfl

/-- A micro-operation leaves the pending events alone. -/
theorem exec_sched {i : Instr} {s t : State} (hstart : i ≠ .start) (h : exec i s = .next t) : t.sched = s.sched := by
  rcases exec_next_cases h with ⟨u, hbody, hadvance⟩ | ⟨c, e, u, hbody, rfl⟩
  · have hadv : t.sched = u.sched := by rw [advance_frame hadvance]
    refine hadv.trans ?_
    by_cases hmore : i = .init ∨ i = .fin
    · rcases hmore with rfl | rfl <;> cases hbody <;> rfl
    · obtain ⟨hinit, hfin⟩ := not_or.mp hmore
      rw [show u = _ from instrBody_datapathFrame hstart hinit hfin hbody]
  · rw [enterError_sched, show u = _ from instrBody_raised_frame hbody]

/-! ### The image of an encode (spec/40_driver.md R135, R139) -/

section
variable {s t : State}

theorem KeepsInputs.argsOk (h : KeepsInputs s t) (hargs : ArgsOk s) : ArgsOk t := by
  simp only [ArgsOk, bytesNeeded, h.width, h.height, h.pixLen, h.params]
  exact hargs

theorem KeepsInputs.mcuW_eq (h : KeepsInputs s t) : mcuW t = mcuW s := by
  rw [mcuW, h.width, ← mcuW]

theorem KeepsInputs.mcuH_eq (h : KeepsInputs s t) : mcuH t = mcuH s := by
  rw [mcuH, h.height, ← mcuH]

/-- CHK completes where the arguments are in order (spec/40_driver.md R135). -/
theorem argsOk_of_checkArguments (h : checkArguments s = .done t) : ArgsOk s := by
  unfold checkArguments at h
  split at h
  · cases h
  next hw =>
  split at h
  · cases h
  next hh =>
  split at h
  · cases h
  next hlen =>
  split at h
  · cases h
  next hfit => exact ⟨hw, hh, Decidable.not_not.mp hlen, Nat.not_lt.mp hfit⟩

/-- An image that CHK has accepted has a first MCU. -/
theorem scanOk_origin (hargs : ArgsOk s) (hmx : s.mx = 0) (hmy : s.my = 0) : ScanOk s := by
  obtain ⟨hw, hh, -⟩ := hargs
  have hW : s.width.toNat ≠ 0 := fun h => hw (BitVec.eq_of_toNat_eq h)
  have hH : s.height.toNat ≠ 0 := fun h => hh (BitVec.eq_of_toNat_eq h)
  have hzero : (0 : BitVec 12).toNat = 0 := rfl
  rw [ScanOk, hmx, hmy, hzero, mcuW, mcuH, ceilDiv, ceilDiv]
  omega
end

/-! ### The place of a micro-operation in the sequence (spec/40_driver.md R138) -/

/-- The part of the invariant's stage condition that the count of steps rests on: the arguments that CHK has checked, and SEQ
inside the image from INIT on. -/
def PlaceOk (i : Instr) (s : State) : Prop :=
  (1 ≤ rank i → ArgsOk s) ∧ (2 ≤ rank i → ScanOk s) ∧ (2 ≤ rank i → rank i ≤ 12 → s.mx = 0 ∧ s.my = 0)

theorem placeOk_of_stageOk {i : Instr} {s : State} (h : StageOk i s) : PlaceOk i s := by
  obtain ⟨hargs, hscan, horigin, -⟩ := h
  refine ⟨hargs, fun hi => (hscan hi).1, fun hlow hhigh => ?_⟩
  obtain ⟨hmx, hmy, -⟩ := horigin hlow hhigh
  exact ⟨hmx, hmy⟩

theorem rank_of_nextInOrder {i j : Instr} (h : nextInOrder i = some j) : rank j = rank i + 1 := by
  cases i <;> cases h <;> rfl

/-- From INIT's successor on, the place of a micro-operation is also in order for the next one. -/
theorem PlaceOk.next {i j : Instr} {s : State} (h : PlaceOk i s) (hj : nextInOrder i = some j) (hlow : 2 ≤ rank i) :
    PlaceOk j s := by
  obtain ⟨hargs, hscan, horigin⟩ := h
  have hrank := rank_of_nextInOrder hj
  exact ⟨fun _ => hargs (by omega), fun _ => hscan hlow, fun _ hhigh => horigin hlow (by omega)⟩

section
variable {s : State}

/-- The number of MCUs before the one at (MX, MY). -/
def mcusDone (s : State) : Nat := s.my.toNat * mcuW s + s.mx.toNat

theorem mcusDone_lt (h : ScanOk s) : mcusDone s < mcuW s * mcuH s := by
  obtain ⟨hmx, hmy⟩ := h
  calc mcusDone s < s.my.toNat * mcuW s + mcuW s := Nat.add_lt_add_left hmx _
    _ = (s.my.toNat + 1) * mcuW s := (Nat.succ_mul _ _).symm
    _ ≤ mcuH s * mcuW s := Nat.mul_le_mul_right _ hmy
    _ = mcuW s * mcuH s := Nat.mul_comm _ _

theorem mcusDone_origin (hmx : s.mx = 0) (hmy : s.my = 0) : mcusDone s = 0 := by
  simp [mcusDone, hmx, hmy]

/-! The count of the steps that remain, in each part of the sequence. -/

variable {i : Instr}

theorem stepsLeft_of_header (h : rank i ≤ 12) : stepsLeft i s = 16 + 37 * (mcuW s * mcuH s) - rank i := if_pos h

theorem stepsLeft_csc : stepsLeft .csc s = 37 * (mcuW s * mcuH s - mcusDone s) + 3 := rfl

theorem stepsLeft_of_block (hlow : 14 ≤ rank i) (hhigh : rank i ≤ 19) :
    stepsLeft i s = 37 * (mcuW s * mcuH s - mcusDone s - 1) + (36 - 6 * s.bi.val - (rank i - 14)) + 3 := by
  rw [stepsLeft, if_neg (by omega), if_neg (by omega), if_pos hhigh, mcusDone]

theorem stepsLeft_of_end (h : 20 ≤ rank i) : stepsLeft i s = 23 - rank i := by
  rw [stepsLeft, if_neg (by omega), if_neg (by omega), if_neg (by omega)]

theorem rank_le (i : Instr) : rank i ≤ 22 := by
  cases i <;> decide

/-- FIN itself is still to come. -/
theorem stepsLeft_pos (i : Instr) (s : State) : 0 < stepsLeft i s := by
  have hrank := rank_le i
  unfold stepsLeft
  dsimp only
  repeat' split
  all_goals omega

/-- The count reads the size of the image, and SEQ where it matters. -/
theorem stepsLeft_congr {t : State} (h : KeepsInputs s t) (hmx : t.mx = s.mx) (hmy : t.my = s.my)
    (hbi : rank i ≠ 13 → t.bi = s.bi) : stepsLeft i t = stepsLeft i s := by
  by_cases hcsc : rank i = 13
  · simp only [stepsLeft, hcsc, h.mcuW_eq, h.mcuH_eq, hmx, hmy]
    rfl
  · simp only [stepsLeft, h.mcuW_eq, h.mcuH_eq, hmx, hmy, hbi hcsc]

theorem stepsLeft_header_next {t : State} {j : Instr} (h : KeepsInputs s t) (hj : nextInOrder i = some j)
    (hhigh : rank j ≤ 12) : stepsLeft j t + 1 = stepsLeft i s := by
  have hrank := rank_of_nextInOrder hj
  rw [stepsLeft_of_header hhigh, stepsLeft_of_header (by omega), h.mcuW_eq, h.mcuH_eq]
  omega

/-- Along the rows of R134 that name one micro-operation the count falls by one. -/
theorem stepsLeft_next {j : Instr} (h : PlaceOk i s) (hj : nextInOrder i = some j) (hbi : i = .csc → s.bi = 0) :
    stepsLeft j s + 1 = stepsLeft i s := by
  obtain ⟨-, hscan, horigin⟩ := h
  have hrank := rank_of_nextInOrder hj
  have hlt : 2 ≤ rank i → mcusDone s < mcuW s * mcuH s := fun hlow => mcusDone_lt (hscan hlow)
  cases i
  case wsos =>
    obtain ⟨hmx, hmy⟩ := horigin (by decide) (by decide)
    cases hj
    rw [stepsLeft_csc, stepsLeft_of_header (by decide), mcusDone_origin hmx hmy, rank]
    omega
  case csc =>
    have hlt := hlt (by decide)
    cases hj
    rw [stepsLeft_csc, stepsLeft_of_block (by decide) (by decide), hbi rfl, rank]
    simp only [Fin.val_zero]
    omega
  case blkld | fdct | quant | zz | hdc =>
    have hblk := s.bi.isLt
    rw [stepsLeft_of_block (by rw [hrank]; decide) (by rw [hrank]; decide), stepsLeft_of_block (by decide) (by decide)]
    cases hj
    simp only [rank]
    omega
  case flush | weoi =>
    rw [stepsLeft_of_end (by rw [hrank]; decide), stepsLeft_of_end (by decide), hrank]
    rfl
  case nop | start | hac | fin => cases hj
  all_goals exact stepsLeft_header_next (.refl s) hj (by rw [hrank]; decide)
end

/-! ### From one place to the next (spec/40_driver.md R134) -/

section
variable {s t : State} {i j : Instr}

theorem PlaceOk.congr (h : PlaceOk i s) (hkeep : KeepsInputs s t) (hmx : t.mx = s.mx) (hmy : t.my = s.my) :
    PlaceOk i t := by
  obtain ⟨hargs, hscan, horigin⟩ := h
  refine ⟨fun hi => hkeep.argsOk (hargs hi), ?_, ?_⟩
  · rw [ScanOk, hkeep.mcuW_eq, hkeep.mcuH_eq, hmx, hmy]
    exact hscan
  · rw [hmx, hmy]
    exact horigin

/-- The advance along a row of R134 that names one micro-operation; only CSC's writes BI. -/
theorem advance_of_nextInOrder (hj : nextInOrder i = some j) (h : advance i s = .next t) :
    decodeUop t.uop = .ok j ∧ t.mx = s.mx ∧ t.my = s.my ∧ (i = .csc → t.bi = 0) ∧ (i ≠ .csc → t.bi = s.bi) := by
  cases i <;> cases hj <;> cases h
  case csc => exact ⟨rfl, rfl, rfl, fun _ => rfl, fun h => absurd rfl h⟩
  all_goals exact ⟨rfl, rfl, rfl, nofun, fun _ => rfl⟩

/-- A micro-operation that has one successor completes at the successor's place. -/
theorem progress_of_nextInOrder {u : State} (hplace : PlaceOk i s) (hj : nextInOrder i = some j)
    (hbody : instrBody s i = .done u) (hadvance : advance i u = .next t) (hkeep : KeepsInputs s t) :
    decodeUop t.uop = .ok j ∧ PlaceOk j t ∧ stepsLeft j t + 1 = stepsLeft i s := by
  obtain ⟨hdecode, hmx, hmy, hcsc, hbi⟩ := advance_of_nextInOrder hj hadvance
  refine ⟨hdecode, ?_⟩
  by_cases hlow : 2 ≤ rank i
  · have hframe : DatapathFrame s u := by
      refine instrBody_datapathFrame ?_ ?_ ?_ hbody <;> rintro rfl
      · cases hj
      · exact absurd hlow (by decide)
      · cases hj
    have hmx' : t.mx = s.mx := by rw [hmx, show u = _ from hframe]
    have hmy' : t.my = s.my := by rw [hmy, show u = _ from hframe]
    have hbi' : i ≠ .csc → t.bi = s.bi := fun hi => by rw [hbi hi, show u = _ from hframe]
    have hplace' := hplace.congr hkeep hmx' hmy'
    refine ⟨hplace'.next hj hlow, ?_⟩
    rw [stepsLeft_next hplace' hj hcsc]
    exact stepsLeft_congr hkeep hmx' hmy' fun hrank => hbi' fun hi => hrank (by rw [hi]; rfl)
  · cases i
    case chk =>
      cases hj
      have hargs : ArgsOk t := hkeep.argsOk (argsOk_of_checkArguments hbody)
      exact ⟨⟨fun _ => hargs, fun h => absurd h (by decide), fun h => absurd h (by decide)⟩,
        stepsLeft_header_next hkeep rfl (by decide)⟩
    case init =>
      cases hj
      cases hbody
      obtain ⟨hargs, -⟩ := hplace
      have hargs' : ArgsOk t := hkeep.argsOk (hargs (by decide))
      exact ⟨⟨fun _ => hargs', fun _ => scanOk_origin hargs' hmx hmy, fun _ _ => ⟨hmx, hmy⟩⟩,
        stepsLeft_header_next hkeep rfl (by decide)⟩
    case nop | start => cases hj
    all_goals exact absurd (by decide) hlow

theorem placeOk_of_scan (hj : 13 ≤ rank j) (hargs : ArgsOk t) (hscan : ScanOk t) : PlaceOk j t :=
  ⟨fun _ => hargs, fun _ => hscan, fun _ hhigh => absurd hhigh (by omega)⟩

/-- After the last block of an MCU that is not the last, the next MCU begins at CSC. -/
theorem stepsLeft_next_mcu (hscan : ScanOk s) (hbi : s.bi = 5) (hkeep : KeepsInputs s t)
    (hdone : mcusDone t = mcusDone s + 1) : stepsLeft .csc t + 1 = stepsLeft .hac s := by
  have hlt := mcusDone_lt hscan
  have hfive : (5 : Fin 6).val = 5 := rfl
  rw [stepsLeft_csc, stepsLeft_of_block (by decide) (by decide), hdone, hkeep.mcuW_eq, hkeep.mcuH_eq, hbi, hfive, rank]
  omega

/-- HAC completes at the next block, at the next MCU, or at FLUSH after the last one. -/
theorem progress_of_hac (hargs : ArgsOk t) (hscan : ScanOk s) (hadv : AdvancesHac s t) (hkeep : KeepsInputs s t) :
    ∃ j, decodeUop t.uop = .ok j ∧ PlaceOk j t ∧ stepsLeft j t + 1 = stepsLeft .hac s := by
  obtain ⟨hblock, hcolumn, hrow, hlast⟩ := hadv
  obtain ⟨hmx, hmy⟩ := id hscan
  have hlt := mcusDone_lt hscan
  have hscan' (hmx' : t.mx.toNat < mcuW s) (hmy' : t.my.toNat < mcuH s) : ScanOk t := by
    rw [ScanOk, hkeep.mcuW_eq, hkeep.mcuH_eq]
    exact ⟨hmx', hmy'⟩
  by_cases hmore : s.bi.val < 5
  · obtain ⟨huop, hx, hy, hbi'⟩ := hblock hmore
    refine ⟨.blkld, by rw [huop]; rfl, placeOk_of_scan (by decide) hargs (hscan' (hx ▸ hmx) (hy ▸ hmy)), ?_⟩
    have hdone : mcusDone t = mcusDone s := by rw [mcusDone, mcusDone, hkeep.mcuW_eq, hx, hy]
    rw [stepsLeft_of_block (by decide) (by decide), stepsLeft_of_block (by decide) (by decide), hdone, hkeep.mcuW_eq,
      hkeep.mcuH_eq, hbi', rank, rank]
    omega
  have hbi : s.bi = 5 := Fin.ext (by have := s.bi.isLt; change s.bi.val = 5; omega)
  by_cases hright : s.mx.toNat + 1 < mcuW s
  · obtain ⟨huop, hx', hy', -⟩ := hcolumn hbi hright
    refine ⟨.csc, by rw [huop]; rfl, placeOk_of_scan (by decide) hargs (hscan' (hx' ▸ hright) (hy' ▸ hmy)),
      stepsLeft_next_mcu hscan hbi hkeep ?_⟩
    rw [mcusDone, mcusDone, hkeep.mcuW_eq, hx', hy', Nat.add_assoc]
  have hx : s.mx.toNat + 1 = mcuW s := by omega
  by_cases hbelow : s.my.toNat + 1 < mcuH s
  · obtain ⟨huop, hx', hy', -⟩ := hrow hbi hx hbelow
    refine ⟨.csc, by rw [huop]; rfl, placeOk_of_scan (by decide) hargs (hscan' ?_ (hy' ▸ hbelow)),
      stepsLeft_next_mcu hscan hbi hkeep ?_⟩
    · rw [hx']
      exact Nat.zero_lt_of_lt hmx
    · have hzero : (0 : BitVec 12).toNat = 0 := rfl
      rw [mcusDone, mcusDone, hkeep.mcuW_eq, hx', hy', Nat.succ_mul, hzero]
      omega
  have hy : s.my.toNat + 1 = mcuH s := by omega
  obtain ⟨huop, hx', hy', -⟩ := hlast hbi hx hy
  refine ⟨.flush, by rw [huop]; rfl, placeOk_of_scan (by decide) hargs (hscan' (hx' ▸ hmx) (hy' ▸ hmy)), ?_⟩
  have hall : mcusDone s + 1 = mcuW s * mcuH s := by
    rw [mcusDone, Nat.add_assoc, hx, ← Nat.succ_mul, Nat.succ_eq_add_one, hy, Nat.mul_comm]
  have hfive : (5 : Fin 6).val = 5 := rfl
  rw [stepsLeft_of_end (by decide), stepsLeft_of_block (by decide) (by decide), ← hall, hbi, hfive, rank, rank]
  omega

/-- What a micro-operation comes to: FIN ends the encode, an error ends it, and every other one leaves the next
micro-operation at its place, with one step fewer to go. -/
theorem exec_progress (hi : running s = some i) (hplace : PlaceOk i s) (h : exec i s = .next t) :
    (t.phase = .done ∧ i = .fin) ∨ t.phase = .error ∨
      ∃ j, running t = some j ∧ PlaceOk j t ∧ stepsLeft j t + 1 = stepsLeft i s := by
  have hkeep := exec_keepsInputs h
  obtain ⟨hnop, hstart⟩ := ne_command_of_running hi
  rcases exec_phase hi h with ⟨hbusy, hfin⟩ | hdone | herror
  case inr.inl => exact .inl hdone
  case inr.inr => exact .inr (.inl herror)
  refine .inr (.inr ?_)
  suffices hnext : ∃ j, decodeUop t.uop = .ok j ∧ PlaceOk j t ∧ stepsLeft j t + 1 = stepsLeft i s by
    obtain ⟨j, hdecode, hrest⟩ := hnext
    exact ⟨j, running_eq_some_iff.mpr ⟨hbusy, hdecode⟩, hrest⟩
  rcases exec_next_cases h with ⟨u, hbody, hadvance⟩ | ⟨c, e, u, -, rfl⟩
  case inr => cases hbusy
  by_cases hhac : i = .hac
  · subst hhac
    obtain ⟨hargs, hscan, -⟩ := hplace
    have hframe : WriterFrame s (instrBody s .hac).endState := writerFrame_codeAc _ _ 0 s
    rw [hbody, endState_done] at hframe
    exact progress_of_hac (hkeep.argsOk (hargs (by decide))) (hscan (by decide))
      (hframe.advancesHac (advanceHac_advances hadvance)) hkeep
  · obtain ⟨j, hfollows, -⟩ := advance_follows hnop hstart hfin hadvance
    exact ⟨j, progress_of_nextInOrder hplace (hfollows.next hhac) hbody hadvance hkeep⟩

/-- At its place no micro-operation stops: CSC's fetches and HAC's MCU are inside the image (spec/20_memory.md R68). -/
theorem exec_next_of_placeOk (hplace : PlaceOk i s) : ∃ t, exec i s = .next t := by
  obtain ⟨hargs, hscan, -⟩ := hplace
  by_cases hcsc : i = .csc
  · subst hcsc
    obtain ⟨hw, hh, -, hfit⟩ := hargs (by decide)
    exact exec_csc_next (not_fetchOutside_of_fits hw hh hfit)
  by_cases hhac : i = .hac
  · subst hhac
    obtain ⟨hmx, hmy⟩ := hscan (by decide)
    refine (exec_hac_cases s).resolve_right fun ⟨⟨_, hout⟩, _⟩ => ?_
    omega
  · exact exec_next hcsc hhac s

/-- The CORE's step at its place. -/
theorem step_progress (hcore : CoreMoves s) (hi : running s = some i) (hplace : PlaceOk i s) :
    ∃ t, step s = .next t ∧ t.sched = s.sched.tail ∧
      ((t.phase = .done ∧ i = .fin) ∨ t.phase = .error ∨
        ∃ j, running t = some j ∧ PlaceOk j t ∧ stepsLeft j t + 1 = stepsLeft i s) := by
  have hplace' : PlaceOk i (coreState s) := hplace
  obtain ⟨t, ht⟩ := exec_next_of_placeOk hplace'
  obtain ⟨-, hstart⟩ := ne_command_of_running hi
  exact ⟨t, (step_of_running hcore hi).trans ht, exec_sched hstart ht, exec_progress (s := coreState s) hi hplace' ht⟩

/-- The last micro-operation is one step from the end. -/
theorem stepsLeft_fin (s : State) : stepsLeft .fin s = 1 := rfl

/-! ### The host while BUSY (spec/20_memory.md R66, spec/40_driver.md R132) -/

/-- While BUSY a host access changes BADCMD and what the host has read, at most. -/
theorem hostAction_frame {e : Event} (hbusy : s.phase = .busy) (hcore : e ≠ .core) (hreset : e ≠ .reset) :
    ∃ t, (eventAction e s = .settle t ∨ ∃ i, eventAction e s = .run i s ∧ exec i s = .next t) ∧
      t = { s with badcmd := t.badcmd, reads := t.reads } := by
  cases e with
  | core => exact absurd rfl hcore
  | reset => exact absurd rfl hreset
  | regWrite off v =>
    by_cases hcmd : off = regOffset .cmd
    · rw [eventAction, if_pos hcmd]
      rcases commandAction_cases v s with hrefuse | ⟨i, rfl | rfl, hrun⟩
      · exact ⟨_, .inl hrefuse, rfl⟩
      · exact ⟨s, .inr ⟨_, hrun, rfl⟩, rfl⟩
      · exact ⟨refuseCommand s, .inr ⟨_, hrun, if_pos hbusy⟩, rfl⟩
    · exact ⟨s, .inl (by rw [eventAction, if_neg hcmd, hostRegWrite_of_busy hbusy]), rfl⟩
  | pixWrite a b => exact ⟨s, .inl (by rw [eventAction, hostPixWrite_of_ignored (.inl hbusy)]), rfl⟩
  | regRead off | pixRead a | outRead a => exact ⟨_, .inl rfl, rfl⟩

theorem step_of_hostMoves (hhost : HostMoves s) (hbusy : s.phase = .busy) :
    ∃ t, step s = .next t ∧ t = { s with sched := s.sched.tail, badcmd := t.badcmd, reads := t.reads } := by
  obtain ⟨hpending, hcore, hreset⟩ := hhost
  obtain ⟨e, rest, hs⟩ := List.exists_cons_of_ne_nil hpending
  rw [hs, List.head?_cons, ne_eq, Option.some.injEq] at hcore hreset
  obtain ⟨t, haction, hframe⟩ := hostAction_frame (s := { s with sched := rest }) hbusy hcore hreset
  refine ⟨t, ?_, by rw [hs]; exact hframe⟩
  rcases haction with hsettle | ⟨i, hrun, hexec⟩
  · exact step_settle ((nextAction_of_pending hs).trans hsettle)
  · exact (step_run ((nextAction_of_pending hs).trans hrun)).trans hexec

/-! ### Runs with no host event pending (spec/70_reset_and_hazards.md R316, R318) -/

theorem run_succ {n : Nat} (h : step s = .next t) : Sys2Proof.core.run (n + 1) s = Sys2Proof.core.run n t := by
  have hstep : Sys2Proof.core.step s = .next t := h
  simp only [Host.Core.run, hstep]

/-- Outside BUSY nothing more happens. -/
theorem run_of_not_busy (n : Nat) (hidle : s.sched = []) (hbusy : s.phase ≠ .busy) :
    Sys2Proof.core.run n s = .next s := by
  induction n with
  | zero => rfl
  | succ n ih =>
    have hstep : step s = .next s := by
      rw [step_of_coreMoves_of_not_busy (.inl hidle) hbusy, coreState_of_idle hidle]
    rw [run_succ hstep, ih]

/-- `n` steps end the encode that `s` is in, in DONE or ERROR, and none fewer end it in DONE. -/
def EndsWithin (n : Nat) (s : State) : Prop :=
  ∃ t, Sys2Proof.core.run n s = .next t ∧ (t.phase = .done ∨ t.phase = .error) ∧
    (t.phase = .done → ∀ k u, k < n → Sys2Proof.core.run k s = .next u → u.phase = .busy)

theorem endsWithin_succ_of_error {n : Nat} (hstep : step s = .next t) (hidle : t.sched = []) (ht : t.phase = .error) :
    EndsWithin (n + 1) s := by
  refine ⟨t, ?_, .inr ht, fun hdone => ?_⟩
  · rw [run_succ hstep, run_of_not_busy n hidle (by rw [ht]; decide)]
  · cases ht.symm.trans hdone

theorem endsWithin_one_of_done (hbusy : s.phase = .busy) (hstep : step s = .next t) (ht : t.phase = .done) :
    EndsWithin 1 s := by
  refine ⟨t, run_succ hstep, .inl ht, fun _ k u hk hrun => ?_⟩
  cases Nat.lt_one_iff.mp hk
  cases hrun
  exact hbusy

theorem EndsWithin.succ {n : Nat} (h : EndsWithin n t) (hbusy : s.phase = .busy) (hstep : step s = .next t) :
    EndsWithin (n + 1) s := by
  obtain ⟨v, hrun, hend, hexact⟩ := h
  refine ⟨v, (run_succ hstep).trans hrun, hend, fun hdone k u hk hu => ?_⟩
  cases k with
  | zero =>
    cases hu
    exact hbusy
  | succ k =>
    rw [run_succ hstep] at hu
    exact hexact hdone k u (Nat.lt_of_succ_lt_succ hk) hu

/-- By induction on the steps that remain. -/
theorem endsWithin_of_stepsLeft {n : Nat} (hidle : s.sched = []) (hi : running s = some i) (hplace : PlaceOk i s)
    (hn : stepsLeft i s = n) : EndsWithin n s := by
  induction n generalizing s i with
  | zero => exact absurd hn (Nat.pos_iff_ne_zero.mp (stepsLeft_pos i s))
  | succ n ih =>
    obtain ⟨hbusy, -⟩ := running_eq_some_iff.mp hi
    obtain ⟨t, hstep, hsched, hresult⟩ := step_progress (.inl hidle) hi hplace
    have hidle' : t.sched = [] := by rw [hsched, hidle, List.tail_nil]
    rcases hresult with ⟨hdone, rfl⟩ | herror | ⟨j, hj, hplace', hleft⟩
    · cases hn
      exact endsWithin_one_of_done hbusy hstep hdone
    · exact endsWithin_succ_of_error hstep hidle' herror
    · exact (ih hidle' hj hplace' (by omega)).succ hbusy hstep
end

/-! ### The obligations -/

/-- The invariant gives the place of the micro-operation that is next. -/
theorem placeOk_of_inv {s : State} {i : Instr} (hinv : Inv s) (hi : running s = some i) : PlaceOk i s := by
  obtain ⟨-, -, -, -, -, -, -, -, hstages⟩ := hinv
  exact placeOk_of_stageOk (hstages i hi)

/-- Settles O56: the CORE by the rows of R134, each of which takes one from the count; the host because nothing that it
changes while BUSY is read by the count. -/
theorem everyCoreStepMakesProgress : Obligations.EveryCoreStepMakesProgress := by
  refine ⟨fun s i hinv hcore hi => ?_, fun s i hhost hi => ?_⟩
  · obtain ⟨t, hstep, -, hresult⟩ := step_progress hcore hi (placeOk_of_inv hinv hi)
    refine ⟨t, hstep, ?_⟩
    rcases hresult with ⟨hdone, rfl⟩ | herror | ⟨j, hj, -, hleft⟩
    · exact .inl ⟨hdone, rfl, stepsLeft_fin s⟩
    · exact .inr (.inl herror)
    · exact .inr (.inr ⟨j, hj, hleft⟩)
  · obtain ⟨t, hstep, hframe⟩ := step_of_hostMoves hhost (running_eq_some_iff.mp hi).1
    refine ⟨t, hstep, ?_, by rw [hframe]; rfl⟩
    rw [hframe]
    exact hi

/-- Settles O57: by induction on the steps that remain, with the place of the next micro-operation kept by every step. -/
theorem everyEncodeEnds : Obligations.EveryEncodeEnds := by
  intro s i hinv hidle hi
  obtain ⟨t, hrun, hend, hexact⟩ := endsWithin_of_stepsLeft hidle hi (placeOk_of_inv hinv hi) rfl
  refine ⟨t, hrun, hend, hexact, ?_⟩
  rintro rfl
  exact stepsLeft_of_header (by decide)

end Sys2Proof.Machine
end

section
/-! The invariant is kept by every step, and from a state that has it no step stops: what the writer makes of OUTMEM, the
ranges of the datapath at each micro-operation, and what the host's accesses leave alone (spec/40_driver.md R143). -/

namespace Sys2Proof.Machine

/-! ### OUTMEM and WP (spec/10_state.md R34, R43) -/

/-- OUTMEM and WP as the invariant has them. -/
structure OutOk (s : State) : Prop where
  wf : s.outmem.wf = true
  keysBelow : KeysBelow s.outmem s.params.outBytes
  wp_le : s.wp.toNat ≤ s.params.outBytes
  written : ∀ a, a < s.wp.toNat → (s.outmem.read a).isSome = true

section
variable {s t : State}

theorem OutOk.congr (h : OutOk s) (hparams : t.params = s.params) (hout : t.outmem = s.outmem) (hwp : t.wp = s.wp) :
    OutOk t := by
  obtain ⟨hwf, hkeys, hle, hwritten⟩ := h
  rw [← hout, ← hparams] at hkeys
  rw [← hwp, ← hparams] at hle
  rw [← hout, ← hwp] at hwritten
  exact ⟨hout ▸ hwf, hkeys, hle, hwritten⟩

theorem OutOk.appendByte (h : OutOk s) (hroom : s.wp.toNat < s.params.outBytes) (b : Byte) : OutOk (s.appendByte b) where
  wf := Memory.wf_write h.wf _ b
  keysBelow := Memory.keysBelow_write h.keysBelow hroom b
  wp_le := (wp_succ_toNat hroom).trans_le hroom
  written a ha := by
    have hwp : (s.appendByte b).wp.toNat = s.wp.toNat + 1 := wp_succ_toNat hroom
    change ((s.outmem.write s.wp.toNat b).read a).isSome = true
    rw [Memory.read_write]
    split
    · rfl
    · exact h.written a (by omega)

theorem OutOk.setBits (h : OutOk s) (acc : Byte) (cnt : Fin 8) : OutOk (s.setBits acc cnt) := h.congr rfl rfl rfl

theorem OutOk.andThen {r : Attempt} {f : State → Attempt} (hr : OutOk r.endState)
    (hf : ∀ t, OutOk t → OutOk (f t).endState) : OutOk (r.andThen f).endState := by
  cases r with
  | done t => exact hf t hr
  | raised c e t => exact hr

theorem OutOk.emitByte (b : Byte) (h : OutOk s) : OutOk (emitByte b s).endState := by
  unfold Machine.emitByte
  split
  · exact h
  next hroom => exact h.appendByte (Nat.not_le.mp hroom) b

theorem OutOk.emitBytes (bs : List Byte) (h : OutOk s) : OutOk (emitBytes bs s).endState := by
  induction bs generalizing s with
  | nil => exact h
  | cons b bs ih => exact (h.emitByte b).andThen fun t => ih

theorem OutOk.emitStuffed (b : Byte) (h : OutOk s) : OutOk (emitStuffed b s).endState := by
  refine ((h.emitByte b).andThen fun t ht => ?_).andThen fun t ht => ht.setBits 0 0
  split
  · exact ht.emitByte 0x00
  · exact ht

theorem OutOk.putBitList (bits : List Bool) (h : OutOk s) : OutOk (putBitList bits s).endState := by
  induction bits generalizing s with
  | nil => exact h
  | cons b bits ih =>
    refine OutOk.andThen ?_ fun t => ih
    unfold putBit
    split
    · exact (h.setBits _ 0).emitStuffed _
    · exact h.setBits _ _

theorem OutOk.codeDc (h : OutOk s) : OutOk (codeDc s).endState := by
  by_cases hcoded : cat (dcDiff s) ≤ 11
  · rw [codeDc_of_coded hcoded]
    exact (h.putBitList _).andThen fun t ht => ht.congr rfl rfl rfl
  · rw [codeDc_of_uncoded (Nat.not_le.mp hcoded)]
    exact h

theorem OutOk.codeAc (t : Fin 2) (vs : List Coef) (r : Nat) (h : OutOk s) : OutOk (codeAc t vs r s).endState := by
  by_cases hcoded : ∀ v ∈ vs, cat v.toInt ≤ 10
  · rw [codeAc_of_coded t vs r s hcoded]
    exact h.putBitList _
  · rw [codeAc_of_uncoded t vs r s (by simpa using hcoded)]
    exact (h.putBitList _).andThen fun _ ht => ht

theorem OutOk.padBits (h : OutOk s) : OutOk (padBits s).endState := by
  unfold Machine.padBits
  split
  · rw [putBits_eq_list]
    exact h.putBitList _
  · exact h

/-- INIT sets WP back; the writer appends below OUT_BYTES; nothing else touches OUTMEM. -/
theorem OutOk.instrBody (i : Instr) (h : OutOk s) : OutOk (instrBody s i).endState := by
  cases i with
  | start =>
    rw [Machine.instrBody, endState_done]
    split <;> exact h.congr rfl rfl rfl
  | chk =>
    rw [Machine.instrBody, checkArguments_endState]
    exact h
  | init => exact ⟨h.wf, h.keysBelow, Nat.zero_le _, fun a ha => absurd ha (Nat.not_lt_zero a)⟩
  | wsoi | wapp0 | wdqt0 | wdqt1 | wsof0 | wdht0 | wdht1 | wdht2 | wdht3 | wsos | weoi => exact h.emitBytes _
  | hdc => exact h.codeDc
  | hac => exact h.codeAc _ _ _
  | flush => exact h.padBits
  | nop | qtgen | csc | blkld | fdct | quant | zz | fin =>
    rw [Machine.instrBody, endState_done]
    exact h.congr rfl rfl rfl

theorem OutOk.advance {i : Instr} (h : OutOk s) (hadvance : advance i s = .next t) : OutOk t := by
  rw [advance_frame hadvance]
  exact h.congr rfl rfl rfl
end

/-! ### Ranges of the datapath (spec/43_fdct.md R187, spec/44_quantizer.md R205, R206) -/

/-- A quotient lies between 0 and the coefficient. -/
theorem quantize_between {d : Byte} (f : Coef) (hd : d ≠ 0) :
    min f.toInt 0 ≤ (quantize f d).toInt ∧ (quantize f d).toInt ≤ max f.toInt 0 := by
  obtain ⟨hpos, hneg⟩ := quantize_toInt f hd
  have hle := quantMagnitude_le f.toInt.natAbs (toNat_pos_of_ne_zero hd)
  rcases Int.lt_or_le f.toInt 0 with hf | hf
  · rw [hneg hf]
    omega
  · rw [hpos hf]
    omega

theorem blockOk_quantBlock {s : State} (hqt : QtOk s) (h : BlockOk s.fblk) : BlockOk (quantBlock s) := by
  obtain ⟨hdc, hac⟩ := h
  have hbetween (n : Fin 64) : min s.fblk[n].toInt 0 ≤ (quantBlock s)[n].toInt ∧
      (quantBlock s)[n].toInt ≤ max s.fblk[n].toInt 0 := by
    rw [quantBlock_getElem]
    exact quantize_between _ (hqt _ _)
  refine ⟨?_, fun n hn => ?_⟩
  · have hq : min s.fblk[0].toInt 0 ≤ (quantBlock s)[0].toInt ∧ (quantBlock s)[0].toInt ≤ max s.fblk[0].toInt 0 :=
      hbetween 0
    unfold DcRange at *
    omega
  · have hq := hbetween n
    have hf := hac n hn
    unfold AcRange at *
    omega

theorem zzTable_eq_zero_iff : ∀ k : Fin 64, zzTable[k] = 0 ↔ k = 0 := by decide

theorem blockOk_zigzagOrder {b : Vector Coef 64} (h : BlockOk b) : BlockOk (zigzagOrder b) := by
  obtain ⟨hdc, hac⟩ := h
  refine ⟨?_, fun k hk => ?_⟩
  · have hzero : (zigzagOrder b)[0] = b[0] := zigzagOrder_getElem b 0
    rw [hzero]
    exact hdc
  · rw [zigzagOrder_getElem]
    exact hac _ fun h => hk ((zzTable_eq_zero_iff k).mp h)

theorem quantTables_ne_zero (q : BitVec 8) (t : Fin 2) (k : Fin 64) : (quantTables q)[t][k] ≠ 0 := fun h => by
  obtain ⟨hpos, -⟩ := scaledEntry_bounds (baseZZ t k) (scaleFactor (effectiveQuality q))
  rw [← quantTables_toNat, h] at hpos
  exact absurd hpos (by decide)

/-- Storing a DC coefficient as a predictor keeps the predictors in their range. -/
theorem predOk_setPred {s : State} {v : Coef} (h : PredOk s) (hv : DcRange v) (c : Fin 3) : PredOk (s.setPred c v) := by
  intro c'
  have hget : (s.setPred c v).pred[c'] = if c = c' then v else s.pred[c'] := by
    simp [State.setPred, Vector.getElem_set, Fin.ext_iff]
  rw [hget]
  split
  · exact hv
  · exact h c'

/-! ### BITACC and BITCNT (spec/47_bitstream.md R246, R247) -/

section
variable {s t : State}

theorem bitsClean_of_empty (hacc : t.bitacc = 0) : BitsClean t := by
  rw [BitsClean, hacc]
  exact Nat.two_pow_pos _

theorem bitsClean_of_putBitList {bits : List Bool} (hclean : BitsClean s) (hwp : s.wp.toNat ≤ s.params.outBytes)
    (h : putBitList bits s = .done t) : BitsClean t := by
  by_cases hroom : Room s (packedBytes s bits)
  · obtain ⟨u, hput, -, -, -, hclean'⟩ := putBitList_of_room hclean hroom
    cases h.symm.trans hput
    exact hclean'
  · obtain ⟨u, hraised, -⟩ := putBitList_of_full hclean hwp hroom
    cases h.symm.trans hraised

theorem eq_appendList_of_emitBytes {bytes : List Byte} (hwp : s.wp.toNat ≤ s.params.outBytes)
    (h : emitBytes bytes s = .done t) : t = s.appendList bytes := by
  rw [emitBytes_spec bytes s hwp] at h
  split at h
  · cases h; rfl
  · cases h

theorem codeAc_bitsClean {c : Fin 2} {vs : List Coef} {r : Nat} (hclean : BitsClean s)
    (hwp : s.wp.toNat ≤ s.params.outBytes) (h : codeAc c vs r s = .done t) : BitsClean t := by
  by_cases hcoded : ∀ v ∈ vs, cat v.toInt ≤ 10
  · rw [codeAc_of_coded c vs r s hcoded] at h
    exact bitsClean_of_putBitList hclean hwp h
  · rw [codeAc_of_uncoded c vs r s (by simpa using hcoded), andThen_eq_done] at h
    obtain ⟨u, -, hraise⟩ := h
    cases hraise

/-- After FLUSH nothing is pending. -/
theorem padBits_empties (hclean : BitsClean s) (h : padBits s = .done t) : t.bitcnt = 0 ∧ t.bitacc = 0 := by
  by_cases hpending : s.bitcnt = 0
  · rw [padBits_of_empty hpending] at h
    cases h
    have hlt := hclean
    rw [BitsClean, hpending] at hlt
    exact ⟨hpending, BitVec.eq_of_toNat_eq (Nat.lt_one_iff.mp hlt)⟩
  · rw [padBits_of_pending hclean hpending, emitStuffed, andThen_eq_done] at h
    obtain ⟨u, -, hset⟩ := h
    cases hset
    exact ⟨rfl, rfl⟩
end

/-! ### The datapath at each micro-operation (spec/40_driver.md R143) -/

/-- The part of the stage condition that is about the datapath; `PlaceOk` is the rest of it. -/
structure DataOk (i : Instr) (s : State) : Prop where
  scan : 2 ≤ rank i → PredOk s ∧ BitsClean s
  origin : 2 ≤ rank i → rank i ≤ 12 → s.bi = 0
  tables : 3 ≤ rank i → QtOk s
  fblk : i = .quant → BlockOk s.fblk
  qblk : i = .zz → BlockOk s.qblk
  zblk : i = .hdc ∨ i = .hac → BlockOk s.zblk
  aligned : i = .qtgen ∨ segmentBytes s i ≠ none ∨ i = .fin → s.bitcnt = 0

section
variable {s t u : State} {i j : Instr}

theorem dataOk_of_stageOk (h : StageOk i s) : DataOk i s := by
  obtain ⟨-, hscan, horigin, htables, hfblk, hqblk, hzblk, haligned⟩ := h
  refine ⟨fun hi => (hscan hi).2, fun hlow hhigh => ?_, htables, hfblk, hqblk, hzblk, haligned⟩
  obtain ⟨-, -, hbi⟩ := horigin hlow hhigh
  exact hbi

theorem stageOk_of_placeOk (hplace : PlaceOk i s) (h : DataOk i s) : StageOk i s := by
  obtain ⟨hargs, hscan, horigin⟩ := hplace
  refine ⟨hargs, fun hi => ⟨hscan hi, h.scan hi⟩, fun hlow hhigh => ?_, h.tables, h.fblk, h.qblk, h.zblk, h.aligned⟩
  obtain ⟨hmx, hmy⟩ := horigin hlow hhigh
  exact ⟨hmx, hmy, h.origin hlow hhigh⟩

/-- Whether `i` writes a segment does not depend on the state. -/
theorem segmentBytes_eq_none_iff (s t : State) (i : Instr) : segmentBytes t i = none ↔ segmentBytes s i = none := by
  cases i <;> simp [segmentBytes]

/-- From QTGEN to WSOS no block has been computed. -/
theorem dataOk_of_header (hhigh : rank i ≤ 12) (hpred : PredOk s) (hclean : BitsClean s) (hbi : s.bi = 0)
    (htables : 3 ≤ rank i → QtOk s) (haligned : s.bitcnt = 0) : DataOk i s where
  scan _ := ⟨hpred, hclean⟩
  origin _ _ := hbi
  tables := htables
  fblk hi := by subst hi; exact absurd hhigh (by decide)
  qblk hi := by subst hi; exact absurd hhigh (by decide)
  zblk hi := by rcases hi with rfl | rfl <;> exact absurd hhigh (by decide)
  aligned _ := haligned

/-- In an MCU, and at FLUSH, the writer need not be at a byte boundary. -/
theorem dataOk_of_block (hlow : 13 ≤ rank i) (hhigh : rank i ≤ 20) (hpred : PredOk s) (hclean : BitsClean s)
    (htables : QtOk s) (hfblk : i = .quant → BlockOk s.fblk) (hqblk : i = .zz → BlockOk s.qblk)
    (hzblk : i = .hdc ∨ i = .hac → BlockOk s.zblk) : DataOk i s where
  scan _ := ⟨hpred, hclean⟩
  origin _ h := absurd h (by omega)
  tables _ := htables
  fblk := hfblk
  qblk := hqblk
  zblk := hzblk
  aligned := by
    revert hlow hhigh
    cases i <;> simp [rank, segmentBytes]

theorem dataOk_of_no_buffer (hi : i = .csc ∨ i = .blkld ∨ i = .fdct ∨ i = .flush) (hpred : PredOk s)
    (hclean : BitsClean s) (htables : QtOk s) : DataOk i s := by
  rcases hi with rfl | rfl | rfl | rfl
  all_goals exact dataOk_of_block (by decide) (by decide) hpred hclean htables nofun nofun nofun

/-- After FLUSH the writer is at a byte boundary, and no block is read any more. -/
theorem dataOk_of_end (hlow : 21 ≤ rank i) (hpred : PredOk s) (hclean : BitsClean s) (htables : QtOk s)
    (haligned : s.bitcnt = 0) : DataOk i s where
  scan _ := ⟨hpred, hclean⟩
  origin _ h := absurd h (by omega)
  tables _ := htables
  fblk hi := by subst hi; exact absurd hlow (by decide)
  qblk hi := by subst hi; exact absurd hlow (by decide)
  zblk hi := by rcases hi with rfl | rfl <;> exact absurd hlow (by decide)
  aligned _ := haligned

/-- A marker appends bytes to OUTMEM and leaves the datapath as the next micro-operation needs it. -/
theorem dataOk_next_of_segment {bytes : List Byte} (hsegment : segmentBytes s i = some bytes)
    (hwp : s.wp.toNat ≤ s.params.outBytes) (hdata : DataOk i s) (hbody : instrBody s i = .done u)
    (hj : nextInOrder i = some j) : DataOk j u := by
  rw [instrBody_of_segment hsegment] at hbody
  have haligned : s.bitcnt = 0 := hdata.aligned (.inr (.inl (by rw [hsegment]; exact Option.some_ne_none _)))
  have hlow : 3 ≤ rank i := by cases i <;> cases hsegment <;> decide
  obtain ⟨hpred, hclean⟩ := hdata.scan (by omega)
  have htables := hdata.tables hlow
  have hrank := rank_of_nextInOrder hj
  rw [eq_appendList_of_emitBytes hwp hbody]
  by_cases hheader : rank j ≤ 12
  · exact dataOk_of_header hheader hpred hclean (hdata.origin (by omega) (by omega)) (fun _ => htables) haligned
  by_cases hwsos : i = .wsos
  · subst hwsos
    cases hj
    exact dataOk_of_no_buffer (by decide) hpred hclean htables
  · have hend : 21 ≤ rank j := by
      revert hheader hwsos
      cases i <;> cases hsegment <;> cases hj <;> decide
    exact dataOk_of_end hend hpred hclean htables haligned

/-- Before CHK and INIT have run nothing is asked of the datapath. -/
theorem dataOk_of_rank_le_one (h : rank i ≤ 1) (s : State) : DataOk i s where
  scan _ := by omega
  origin _ := by omega
  tables _ := by omega
  fblk hi := by subst hi; exact absurd h (by decide)
  qblk hi := by subst hi; exact absurd h (by decide)
  zblk hi := by rcases hi with rfl | rfl <;> exact absurd h (by decide)
  aligned := by
    revert h
    cases i <;> simp [rank, segmentBytes]

/-- INIT sets the predictors, the accumulator and BI to 0 (spec/40_driver.md R136). -/
theorem dataOk_qtgen_initEncode (s : State) : DataOk .qtgen (initEncode s) := by
  refine dataOk_of_header (by decide) (fun c => ?_) (bitsClean_of_empty rfl) rfl (fun h => absurd h (by decide)) rfl
  have hzero : (initEncode s).pred[c] = 0 := by simp [initEncode]
  rw [hzero]
  decide

theorem dataOk_next_of_qtgen (hdata : DataOk .qtgen s) : DataOk .wsoi { s with qt := quantTables s.quality } := by
  obtain ⟨hpred, hclean⟩ := hdata.scan (by decide)
  exact dataOk_of_header (by decide) hpred hclean (hdata.origin (by decide) (by decide))
    (fun _ => quantTables_ne_zero s.quality) (hdata.aligned (.inl rfl))

/-- `t` differs from `s` in the block buffers and QT at most. -/
def BufferFrame (s t : State) : Prop :=
  t = { s with mcu := t.mcu, sblk := t.sblk, fblk := t.fblk, qblk := t.qblk, zblk := t.zblk, qt := t.qt }

/-- The stages from CSC to ZZ write one buffer, which the next stage reads. -/
theorem dataOk_next_of_buffer (hlow : 13 ≤ rank i) (hdata : DataOk i s) (hj : nextInOrder i = some j)
    (hhigh : rank j ≤ 20) (hu : BufferFrame s u) (hqt : u.qt = s.qt) (hfblk : j = .quant → BlockOk u.fblk)
    (hqblk : j = .zz → BlockOk u.qblk) (hzblk : j = .hdc ∨ j = .hac → BlockOk u.zblk) : DataOk j u := by
  obtain ⟨hpred, hclean⟩ := hdata.scan (by omega)
  have htables := hdata.tables (by omega)
  have hrank := rank_of_nextInOrder hj
  rw [QtOk, ← hqt] at htables
  refine dataOk_of_block (by omega) hhigh ?_ ?_ htables hfblk hqblk hzblk
  · rw [show u = _ from hu]
    exact hpred
  · rw [show u = _ from hu]
    exact hclean

theorem dataOk_next_of_hdc (hwp : s.wp.toNat ≤ s.params.outBytes) (hdata : DataOk .hdc s) (hbody : codeDc s = .done u) :
    DataOk .hac u := by
  obtain ⟨hpred, hclean⟩ := hdata.scan (by decide)
  have hzblk : BlockOk s.zblk := hdata.zblk (.inl rfl)
  obtain ⟨hdc, -⟩ := id hzblk
  obtain ⟨v, hput, rfl⟩ := codeDc_eq_done hbody
  have hclean' : BitsClean v := bitsClean_of_putBitList hclean hwp hput
  have hframe := writerFrame_putBitList (dcBits (tabOf s.bi) (dcDiff s)) s
  rw [hput, endState_done] at hframe
  have hpred' : PredOk v := by
    rw [show v = _ from hframe]
    exact hpred
  have htables : QtOk v ∧ BlockOk v.zblk := by
    rw [show v = _ from hframe]
    exact ⟨hdata.tables (by decide), hzblk⟩
  obtain ⟨htables, hzblk'⟩ := htables
  exact dataOk_of_block (by decide) (by decide) (predOk_setPred hpred' hdc _) hclean' htables nofun nofun
    fun _ => hzblk'

theorem dataOk_next_of_hac (hwp : s.wp.toNat ≤ s.params.outBytes) (hdata : DataOk .hac s)
    (hbody : instrBody s .hac = .done u) (hj : j = .blkld ∨ j = .csc ∨ j = .flush) : DataOk j u := by
  obtain ⟨hpred, hclean⟩ := hdata.scan (by decide)
  have hclean' : BitsClean u := codeAc_bitsClean hclean hwp hbody
  have hframe : WriterFrame s (instrBody s .hac).endState := writerFrame_codeAc _ _ 0 s
  rw [hbody, endState_done] at hframe
  rw [show u = _ from hframe] at hclean' ⊢
  rcases hj with rfl | rfl | rfl
  all_goals exact dataOk_of_no_buffer (by decide) hpred hclean' (hdata.tables (by decide))

theorem dataOk_next_of_flush (hdata : DataOk .flush s) (hbody : padBits s = .done u) : DataOk .weoi u := by
  obtain ⟨hpred, hclean⟩ := hdata.scan (by decide)
  obtain ⟨haligned, hacc⟩ := padBits_empties hclean hbody
  have hframe := writerFrame_padBits s
  rw [hbody, endState_done] at hframe
  have hkept : PredOk u ∧ QtOk u := by
    rw [show u = _ from hframe]
    exact ⟨hpred, hdata.tables (by decide)⟩
  obtain ⟨hpred', htables'⟩ := hkept
  exact dataOk_of_end (by decide) hpred' (bitsClean_of_empty hacc) htables' haligned

/-- A micro-operation that completes leaves the datapath as the next one needs it. -/
theorem dataOk_next_body (hwp : s.wp.toNat ≤ s.params.outBytes) (hdata : DataOk i s) (hbody : instrBody s i = .done u)
    (hj : Follows i j) : DataOk j u := by
  by_cases hhac : i = .hac
  · subst hhac
    exact dataOk_next_of_hac hwp hdata hbody (hj.resolve_left nofun).2
  have hnext := hj.next hhac
  cases i
  case hac => exact absurd rfl hhac
  case wsoi | wapp0 | wdqt0 | wdqt1 | wsof0 | wdht0 | wdht1 | wdht2 | wdht3 | wsos | weoi =>
    exact dataOk_next_of_segment rfl hwp hdata hbody hnext
  case nop | start | fin => cases hnext
  case chk => cases hnext; exact dataOk_of_rank_le_one (by decide) u
  case init => cases hnext; cases hbody; exact dataOk_qtgen_initEncode s
  case qtgen => cases hnext; cases hbody; exact dataOk_next_of_qtgen hdata
  case hdc => cases hnext; exact dataOk_next_of_hdc hwp hdata hbody
  case flush => cases hnext; exact dataOk_next_of_flush hdata hbody
  case csc | blkld =>
    cases hnext; cases hbody
    exact dataOk_next_of_buffer (by decide) hdata rfl (by decide) rfl rfl nofun nofun nofun
  case fdct =>
    cases hnext; cases hbody
    exact dataOk_next_of_buffer (by decide) hdata rfl (by decide) rfl rfl (fun _ => fdctRanges s.sblk) nofun
      nofun
  case quant =>
    cases hnext; cases hbody
    exact dataOk_next_of_buffer (by decide) hdata rfl (by decide) rfl rfl nofun
      (fun _ => blockOk_quantBlock (hdata.tables (by decide)) (hdata.fblk rfl)) nofun
  case zz =>
    cases hnext; cases hbody
    exact dataOk_next_of_buffer (by decide) hdata rfl (by decide) rfl rfl nofun nofun
      fun _ => blockOk_zigzagOrder (hdata.qblk rfl)

/-- The stage condition reads BI in the header only. -/
theorem DataOk.congr (h : DataOk i s) (hpred : t.pred = s.pred) (hacc : t.bitacc = s.bitacc)
    (hcnt : t.bitcnt = s.bitcnt) (hqt : t.qt = s.qt) (hfblk : t.fblk = s.fblk) (hqblk : t.qblk = s.qblk)
    (hzblk : t.zblk = s.zblk) (hbi : rank i ≤ 12 → t.bi = s.bi) : DataOk i t where
  scan := by
    rw [PredOk, BitsClean, hpred, hacc, hcnt]
    exact h.scan
  origin hlow hhigh := (hbi hhigh).trans (h.origin hlow hhigh)
  tables := by
    rw [QtOk, hqt]
    exact h.tables
  fblk := hfblk ▸ h.fblk
  qblk := hqblk ▸ h.qblk
  zblk := hzblk ▸ h.zblk
  aligned := by
    rw [ne_eq, segmentBytes_eq_none_iff s, hcnt]
    exact h.aligned

/-- BI changes only where the next micro-operation is one of the MCU loop. -/
theorem bi_of_advance (hj : Follows i j) (hrank : rank j ≤ 12) (h : advance i u = .next t) : t.bi = u.bi := by
  have hhac : i ≠ .hac := by
    rintro rfl
    have hscan := hj.rank_scan (by decide) (by decide)
    omega
  obtain ⟨-, -, -, -, hbi⟩ := advance_of_nextInOrder (hj.next hhac) h
  refine hbi fun hcsc => ?_
  subst hcsc
  have hscan := hj.rank_scan (by decide) (by decide)
  omega

theorem dataOk_next (hwp : s.wp.toNat ≤ s.params.outBytes) (hdata : DataOk i s) (hbody : instrBody s i = .done u)
    (hadvance : advance i u = .next t) (hj : Follows i j) : DataOk j t := by
  refine (dataOk_next_body hwp hdata hbody hj).congr ?_ ?_ ?_ ?_ ?_ ?_ ?_ fun hrank => bi_of_advance hj hrank hadvance
  all_goals rw [advance_frame hadvance]
end

/-! ### The invariant and its parts -/

section
variable {s t u : State} {i j : Instr}

theorem outOk_of_inv (h : Inv s) : OutOk s := by
  obtain ⟨-, hwf, -, hkeys, hwp, hwritten, -⟩ := h
  exact ⟨hwf, hkeys, hwp, hwritten⟩

theorem stageOk_of_inv (h : Inv s) (hi : running s = some i) : StageOk i s := by
  obtain ⟨-, -, -, -, -, -, -, -, hstages⟩ := h
  exact hstages i hi

theorem running_isSome_of_inv (h : Inv s) (hbusy : s.phase = .busy) : ∃ i, running s = some i := by
  obtain ⟨-, -, -, -, -, -, -, hruns, -⟩ := h
  exact Option.isSome_iff_exists.mp (hruns hbusy)

theorem err_eq_zero_of_inv (h : Inv s) (hphase : s.phase ≠ .error) : s.err = 0 ∧ s.errInfo = 0 := by
  obtain ⟨-, -, -, -, -, -, hnoError, -⟩ := h
  exact hnoError hphase

/-- Outside BUSY the invariant asks for the memories and the error record, of which a step may change OUTMEM. -/
theorem Inv.of_not_busy (h : Inv s) (hkeep : t.params = s.params ∧ t.pixmem = s.pixmem) (hout : OutOk t)
    (herr : t.phase ≠ .error → t.err = 0 ∧ t.errInfo = 0) (hphase : t.phase ≠ .busy) : Inv t := by
  obtain ⟨hwf, -, hkeys, -⟩ := h
  obtain ⟨hparams, hpixmem⟩ := hkeep
  rw [← hpixmem] at hwf
  rw [← hpixmem, ← hparams] at hkeys
  exact inv_of_phase_ne_busy hphase hwf hout.wf hkeys hout.keysBelow hout.wp_le hout.written herr

/-- While BUSY the invariant also asks for the stage condition of the micro-operation that is next. -/
theorem Inv.of_running (h : Inv s) (hkeep : t.params = s.params ∧ t.pixmem = s.pixmem) (hout : OutOk t)
    (herr : t.err = 0 ∧ t.errInfo = 0) (hj : running t = some j) (hstage : StageOk j t) : Inv t := by
  obtain ⟨hwf, -, hkeys, -⟩ := h
  obtain ⟨hparams, hpixmem⟩ := hkeep
  rw [← hpixmem] at hwf
  rw [← hpixmem, ← hparams] at hkeys
  refine ⟨hwf, hout.wf, hkeys, hout.keysBelow, hout.wp_le, hout.written, fun _ => herr,
    fun _ => Option.isSome_iff_exists.mpr ⟨j, hj⟩, fun i hi => ?_⟩
  cases hj.symm.trans hi
  exact hstage

/-! ### The CORE's step -/

/-- Only START writes the error record before SEQ advances. -/
theorem instrBody_errorRecord (hstart : i ≠ .start) (h : instrBody s i = .done u) :
    u.err = s.err ∧ u.errInfo = s.errInfo := by
  by_cases hmore : i = .init ∨ i = .fin
  · rcases hmore with rfl | rfl <;> cases h <;> exact ⟨rfl, rfl⟩
  · obtain ⟨hinit, hfin⟩ := not_or.mp hmore
    rw [show u = _ from instrBody_datapathFrame hstart hinit hfin h]
    exact ⟨rfl, rfl⟩

/-- A micro-operation keeps the invariant: one that completes leaves the next one's stage condition, FIN and an error leave
BUSY. -/
theorem inv_of_exec (hinv : Inv s) (hi : running s = some i) (h : exec i s = .next t) : Inv t := by
  obtain ⟨hnop, hstart⟩ := ne_command_of_running hi
  obtain ⟨hbusy, -⟩ := running_eq_some_iff.mp hi
  have hstage := stageOk_of_inv hinv hi
  have hkeeps := exec_keepsInputs h
  have hkeep : t.params = s.params ∧ t.pixmem = s.pixmem := ⟨hkeeps.params, hkeeps.pixmem⟩
  have hout : OutOk (instrBody s i).endState := (outOk_of_inv hinv).instrBody i
  rcases exec_next_cases h with ⟨u, hbody, hadvance⟩ | ⟨c, e, u, hbody, rfl⟩
  · rw [hbody, endState_done] at hout
    have herr : t.err = 0 ∧ t.errInfo = 0 := by
      obtain ⟨herr, herrInfo⟩ := instrBody_errorRecord hstart hbody
      rw [advance_frame hadvance, herr, herrInfo]
      exact err_eq_zero_of_inv hinv (by rw [hbusy]; decide)
    rcases exec_progress hi (placeOk_of_stageOk hstage) h with ⟨hdone, -⟩ | herror | ⟨j, hj, hplace, -⟩
    · exact hinv.of_not_busy hkeep (hout.advance hadvance) (fun _ => herr) (by rw [hdone]; decide)
    · exact hinv.of_not_busy hkeep (hout.advance hadvance) (fun _ => herr) (by rw [herror]; decide)
    · have hfin : i ≠ .fin := by
        rintro rfl
        cases hbody
        cases hadvance
        cases (running_eq_some_iff.mp hj).1
      obtain ⟨j', hfollows, hdecode⟩ := advance_follows hnop hstart hfin hadvance
      cases (running_eq_some_iff.mp hj).2.symm.trans hdecode
      have hdata := dataOk_next (outOk_of_inv hinv).wp_le (dataOk_of_stageOk hstage) hbody hadvance hfollows
      exact hinv.of_running hkeep (hout.advance hadvance) herr hj (stageOk_of_placeOk hplace hdata)
  · rw [hbody, endState_raised] at hout
    exact hinv.of_not_busy hkeep (hout.congr rfl rfl rfl) (fun hphase => absurd rfl hphase) (by simp)

/-! ### The host's accesses -/

/-- CHK is the first micro-operation: it needs nothing that the encode has written. -/
theorem stageOk_of_chk (s : State) : StageOk .chk s := by
  simp [StageOk, rank, segmentBytes]

/-- Outside BUSY the configuration registers are free. -/
theorem inv_writeConfig (hbusy : s.phase ≠ .busy) (hinv : Inv s) (off : BitVec 12) (v : Word) :
    Inv (writeConfig s off v) := by
  have hout := outOk_of_inv hinv
  have herr := err_eq_zero_of_inv hinv
  unfold writeConfig
  repeat' split
  case isFalse.isFalse.isFalse.isFalse => exact hinv
  all_goals exact hinv.of_not_busy ⟨rfl, rfl⟩ (hout.congr rfl rfl rfl) herr hbusy

theorem inv_hostRegWrite (hinv : Inv s) (off : BitVec 12) (v : Word) : Inv (hostRegWrite off v s) := by
  by_cases hbusy : s.phase = .busy
  · rwa [hostRegWrite_of_busy hbusy]
  · rw [hostRegWrite_of_not_busy hbusy]
    exact inv_writeConfig hbusy hinv off v

/-- A pixel write inside PIXMEM keeps it canonical and within its capacity. -/
theorem inv_hostPixWrite (hinv : Inv s) (a : Nat) (b : Byte) : Inv (hostPixWrite a b s) := by
  by_cases hignored : s.phase = .busy ∨ s.params.pixBytes ≤ a
  · rwa [hostPixWrite_of_ignored hignored]
  obtain ⟨hbusy, ha⟩ := not_or.mp hignored
  rw [hostPixWrite_of_writable hbusy (Nat.not_le.mp ha)]
  have hout := outOk_of_inv hinv
  have herr := err_eq_zero_of_inv hinv
  obtain ⟨hwf, -, hkeys, -⟩ := hinv
  exact inv_of_phase_ne_busy hbusy (Memory.wf_write hwf a b) hout.wf
    (Memory.keysBelow_write hkeys (Nat.not_le.mp ha) b) hout.keysBelow hout.wp_le hout.written herr

theorem inv_acceptStart (hinv : Inv s) : Inv (acceptStart s) :=
  hinv.of_running ⟨rfl, rfl⟩ ((outOk_of_inv hinv).congr rfl rfl rfl) ⟨rfl, rfl⟩ (j := .chk) rfl (stageOk_of_chk _)

/-- RESET sets WP back, so that nothing of OUTMEM is owed. -/
theorem inv_assertReset (hinv : Inv s) : Inv (assertReset s) := by
  obtain ⟨hwf, hkeys, -, -⟩ := outOk_of_inv hinv
  have hout : OutOk (assertReset s) := ⟨hwf, hkeys, Nat.zero_le _, fun a ha => absurd ha (Nat.not_lt_zero a)⟩
  exact hinv.of_not_busy ⟨rfl, rfl⟩ hout (fun _ => ⟨rfl, rfl⟩) (by simp)

/-- The invariant says nothing of BADCMD. -/
theorem inv_refuseCommand (hinv : Inv s) : Inv (refuseCommand s) := hinv

theorem inv_of_settle {e : Event} (he : e ≠ .core) (h : eventAction e s = .settle t) (hinv : Inv s) : Inv t := by
  cases e with
  | core => exact absurd rfl he
  | regWrite off v =>
    rw [eventAction] at h
    split at h
    · rcases commandAction_cases v s with hrefuse | ⟨i, -, hrun⟩
      · rw [hrefuse] at h; cases h; exact inv_refuseCommand hinv
      · rw [hrun] at h; cases h
    · cases h; exact inv_hostRegWrite hinv off v
  | regRead off | pixRead a | outRead a => cases h; exact hinv
  | pixWrite a b => cases h; exact inv_hostPixWrite hinv a b
  | reset => cases h; exact inv_assertReset hinv

theorem inv_of_command (hi : i = .nop ∨ i = .start) (h : exec i s = .next t) (hinv : Inv s) : Inv t := by
  rcases hi with rfl | rfl
  · cases h
    exact hinv
  · change execStart s = .next t at h
    unfold execStart at h
    split at h
    · cases h; exact inv_refuseCommand hinv
    · cases h; exact inv_acceptStart hinv
end

/-! ### The obligations -/

/-- Settles O51: the CORE by what its micro-operation leaves to the next one, the host by what its accesses leave alone. -/
theorem stepKeepsTheInvariant : Obligations.StepKeepsTheInvariant := by
  intro s t hinv h
  have htaken (rest : List Event) : Inv { s with sched := rest } := hinv
  by_cases hcore : CoreMoves s
  · by_cases hbusy : s.phase = .busy
    · obtain ⟨i, hi⟩ := running_isSome_of_inv hinv hbusy
      rw [step_of_running hcore hi] at h
      exact inv_of_exec (s := coreState s) (htaken _) hi h
    · rw [step_of_coreMoves_of_not_busy hcore hbusy] at h
      cases h
      exact htaken _
  · obtain ⟨e, rest, hs, he⟩ := pending_of_not_coreMoves hcore
    have haction := nextAction_of_pending hs
    rcases eventAction_cases he { s with sched := rest } with ⟨u, hsettle⟩ | ⟨i, hi, hrun⟩
    · rw [step_settle (haction.trans hsettle)] at h
      cases h
      exact inv_of_settle he hsettle (htaken rest)
    · rw [step_run (haction.trans hrun)] at h
      exact inv_of_command hi h (htaken rest)

/-- Settles O52: only the CORE's step can stop, and the micro-operation that the invariant names has a next state at its
place. -/
theorem stepNeverStops : Obligations.StepNeverStops := by
  intro s hinv
  by_cases hcore : CoreMoves s
  case neg => exact step_next_of_not_coreMoves hcore
  by_cases hbusy : s.phase = .busy
  · obtain ⟨i, hi⟩ := running_isSome_of_inv hinv hbusy
    obtain ⟨t, hstep, -⟩ := step_progress hcore hi (placeOk_of_inv hinv hi)
    exact ⟨t, hstep⟩
  · exact ⟨_, step_of_coreMoves_of_not_busy hcore hbusy⟩

end Sys2Proof.Machine
end

section
/-! The fixed program: which micro-operation stands at each place of the sequence, and that each step of the CORE leads from
one place to the next (spec/40_driver.md R134, R138). -/

namespace Sys2Proof.Machine

/-! ### The sequence of an encode (spec/30_encoding.md R115, spec/40_driver.md R138) -/

/-- The micro-operations before the first MCU. -/
def prologue : List Instr :=
  [.chk, .init, .qtgen, .wsoi, .wapp0, .wdqt0, .wdqt1, .wsof0, .wdht0, .wdht1, .wdht2, .wdht3, .wsos]

/-- The micro-operations after the last MCU. -/
def epilogue : List Instr := [.flush, .weoi, .fin]

theorem encodeSequence_eq (n : Nat) :
    encodeSequence n = prologue ++ ((List.replicate n mcuSequence).flatten ++ epilogue) :=
  List.append_assoc _ _ _

theorem length_mcuSequence : mcuSequence.length = 37 := rfl

theorem length_mcus (n : Nat) : (List.replicate n mcuSequence).flatten.length = 37 * n := by
  simp [length_mcuSequence, Nat.mul_comm]

/-- A place in the `d`-th of `n` equal parts. -/
theorem flatten_replicate_getElem? {α : Type} {xs : List α} {n d r : Nat} (hd : d < n) (hr : r < xs.length) :
    (List.replicate n xs).flatten[xs.length * d + r]? = xs[r]? := by
  induction n generalizing d with
  | zero => exact absurd hd (Nat.not_lt_zero d)
  | succ n ih =>
    rw [List.replicate_succ, List.flatten_cons]
    cases d with
    | zero => rw [Nat.mul_zero, Nat.zero_add, List.getElem?_append_left hr]
    | succ d =>
      rw [Nat.mul_succ, List.getElem?_append_right (by omega), ← ih (Nat.lt_of_succ_lt_succ hd)]
      congr 1
      omega

theorem encodeSequence_length (n : Nat) : (encodeSequence n).length = 16 + 37 * n := by
  rw [encodeSequence_eq, List.length_append, List.length_append, length_mcus]
  simp only [prologue, epilogue, List.length_cons, List.length_nil]
  omega

theorem encodeSequence_prologue {n k : Nat} (h : k < 13) : (encodeSequence n)[k]? = prologue[k]? := by
  rw [encodeSequence_eq]
  exact List.getElem?_append_left h

theorem encodeSequence_mcu {n d r : Nat} (hd : d < n) (hr : r < 37) :
    (encodeSequence n)[13 + (37 * d + r)]? = mcuSequence[r]? := by
  have hprologue : prologue.length = 13 := rfl
  have hinside : 37 * d + r < (List.replicate n mcuSequence).flatten.length := by
    rw [length_mcus]
    omega
  rw [encodeSequence_eq, List.getElem?_append_right (by omega), hprologue, Nat.add_sub_cancel_left,
    List.getElem?_append_left hinside]
  exact flatten_replicate_getElem? (xs := mcuSequence) hd hr

theorem encodeSequence_epilogue (n r : Nat) : (encodeSequence n)[13 + (37 * n + r)]? = epilogue[r]? := by
  have hprologue : prologue.length = 13 := rfl
  rw [encodeSequence_eq, List.getElem?_append_right (by omega), hprologue, Nat.add_sub_cancel_left,
    List.getElem?_append_right (by rw [length_mcus]; omega), length_mcus, Nat.add_sub_cancel_left]

/-- In an MCU the micro-operations of block `b` follow CSC and those of the blocks before it. -/
theorem mcuSequence_block (b : Fin 6) {i : Instr} (hlow : 14 ≤ rank i) (hhigh : rank i ≤ 19) :
    mcuSequence[1 + 6 * b.val + (rank i - 14)]? = some i := by
  revert b hlow hhigh
  cases i <;> decide

/-! ### The place of the micro-operation that is next -/

/-- The place in the sequence, from the count of the steps that remain. -/
def placeOf (i : Instr) (s : State) : Nat := encodeSteps s - stepsLeft i s

section
variable {s t : State} {i j : Instr}

/-- The place is where the count says: at its rank in the header, in the MCU at (MX, MY), or after the last MCU. -/
theorem encodeSequence_placeOf (hi : running s = some i) (h : PlaceOk i s) :
    (encodeSequence (mcuW s * mcuH s))[placeOf i s]? = some i := by
  obtain ⟨-, hscan, -⟩ := h
  obtain ⟨hnop, hstart⟩ := ne_command_of_running hi
  have hlt : 2 ≤ rank i → mcusDone s < mcuW s * mcuH s := fun hlow => mcusDone_lt (hscan hlow)
  have hrank := rank_le i
  by_cases hheader : rank i ≤ 12
  · have hplace : placeOf i s = rank i := by
      rw [placeOf, encodeSteps, stepsLeft_of_header hheader]
      omega
    rw [hplace, encodeSequence_prologue (by omega)]
    revert hheader hnop hstart
    cases i <;> decide
  by_cases hcsc : rank i = 13
  · obtain rfl : i = .csc := by
      revert hcsc
      cases i <;> decide
    have hlt := hlt (by decide)
    have hplace : placeOf .csc s = 13 + (37 * mcusDone s + 0) := by
      rw [placeOf, encodeSteps, stepsLeft_csc]
      omega
    rw [hplace, encodeSequence_mcu hlt (by decide)]
    rfl
  by_cases hblock : rank i ≤ 19
  · have hlt := hlt (by omega)
    have hb := s.bi.isLt
    have hplace : placeOf i s = 13 + (37 * mcusDone s + (1 + 6 * s.bi.val + (rank i - 14))) := by
      rw [placeOf, encodeSteps, stepsLeft_of_block (by omega) hblock]
      omega
    rw [hplace, encodeSequence_mcu hlt (by omega), mcuSequence_block s.bi (by omega) hblock]
  · have hplace : placeOf i s = 13 + (37 * (mcuW s * mcuH s) + (rank i - 20)) := by
      rw [placeOf, encodeSteps, stepsLeft_of_end (by omega)]
      omega
    rw [hplace, encodeSequence_epilogue]
    revert hblock
    cases i <;> decide

theorem KeepsInputs.encodeSteps_eq (h : KeepsInputs s t) : encodeSteps t = encodeSteps s := by
  rw [encodeSteps, encodeSteps, h.mcuW_eq, h.mcuH_eq]

theorem stepsLeft_le_encodeSteps (h : PlaceOk i s) : stepsLeft i s ≤ encodeSteps s := by
  obtain ⟨-, hscan, -⟩ := h
  by_cases hheader : rank i ≤ 12
  · rw [stepsLeft_of_header hheader]
    exact Nat.sub_le _ _
  have hlt := mcusDone_lt (hscan (by omega))
  have hdone : s.my.toNat * mcuW s + s.mx.toNat = mcusDone s := rfl
  simp only [stepsLeft, encodeSteps, hdone, if_neg hheader]
  repeat' split
  all_goals omega
end

/-- Settles O55: a step takes one from the count of the steps that remain, and so adds one to the place. -/
theorem sequencerFollowsTheFixedProgram : Obligations.SequencerFollowsTheFixedProgram := by
  intro s t i hinv hcore hi h
  have hplace := placeOk_of_inv hinv hi
  have hlength : (encodeSequence (mcuW s * mcuH s)).length = encodeSteps s := encodeSequence_length _
  have hexec : exec i (coreState s) = .next t := (step_of_running hcore hi).symm.trans h
  have htaken : KeepsInputs s (coreState s) := ⟨rfl, rfl, rfl, rfl, rfl, rfl⟩
  have hkeep : KeepsInputs s t := htaken.trans (exec_keepsInputs hexec)
  have hleft := stepsLeft_le_encodeSteps hplace
  refine ⟨encodeSequence_placeOf hi hplace, fun hbusy => ?_, fun hdone => ?_, hlength⟩
  all_goals rcases exec_progress (s := coreState s) hi hplace hexec with ⟨ht, rfl⟩ | ht | ⟨j, hj, hplace', hcount⟩
  · cases hbusy.symm.trans ht
  · cases hbusy.symm.trans ht
  · have hat := encodeSequence_placeOf hj hplace'
    have hcount' : stepsLeft j t + 1 = stepsLeft i s := hcount
    have hnext : placeOf j t = encodeSteps s - stepsLeft i s + 1 := by
      rw [placeOf, hkeep.encodeSteps_eq]
      omega
    rw [hnext, hkeep.mcuW_eq, hkeep.mcuH_eq] at hat
    rw [hj, hat]
  · have hpos := stepsLeft_fin s
    rw [hlength, hpos]
    have : 1 ≤ encodeSteps s := hpos ▸ hleft
    omega
  · cases hdone.symm.trans ht
  · cases hdone.symm.trans (running_eq_some_iff.mp hj).1

end Sys2Proof.Machine
end

section
/-! Two encodes of the same inputs: the writer, the datapath and SEQ of both come to the same in every step, whatever else
the two machines hold and whatever the host does meanwhile (spec/40_driver.md R143). -/

namespace Sys2Proof.Machine

/-! ### Attempts that come to the same -/

/-- Both attempts complete, in states that `R` relates, or both raise the same error. -/
def Attempt.Alike (R : State → State → Prop) : Attempt → Attempt → Prop
  | .done s, .done t => R s t
  | .raised c e _, .raised c' e' _ => c = c' ∧ e = e'
  | _, _ => False

section
variable {R S : State → State → Prop}

theorem Attempt.Alike.andThen {r q : Attempt} {f g : State → Attempt} (h : r.Alike R q)
    (hfg : ∀ s t, R s t → (f s).Alike S (g t)) : (r.andThen f).Alike S (q.andThen g) := by
  cases r <;> cases q
  case done.done s t => exact hfg s t h
  case raised.raised => exact h
  all_goals exact h.elim

/-- What is known of the states in which the attempts end may be used to relate them. -/
theorem Attempt.Alike.of_endState {r q : Attempt} {P Q : State → Prop} (h : r.Alike R q) (hr : P r.endState)
    (hq : Q q.endState) (hS : ∀ s t, P s → Q t → R s t → S s t) : r.Alike S q := by
  cases r <;> cases q
  case done.done s t => exact hS s t hr hq h
  case raised.raised => exact h
  all_goals exact h.elim

/-- Two attempts that are alike: how both end. -/
theorem Attempt.Alike.cases {r q : Attempt} (h : r.Alike R q) :
    (∃ u v, r = .done u ∧ q = .done v ∧ R u v) ∨ ∃ c e u v, r = .raised c e u ∧ q = .raised c e v := by
  cases r <;> cases q
  case done.done s t => exact .inl ⟨s, t, rfl, rfl, h⟩
  case raised.raised c e u c' e' v =>
    obtain ⟨rfl, rfl⟩ := h
    exact .inr ⟨c, e, u, v, rfl, rfl⟩
  all_goals exact h.elim
end

/-! ### The writer (spec/47_bitstream.md section 1) -/

/-- Two writers are at the same place of the same output. -/
structure SameWriter (s t : State) : Prop where
  params : s.params = t.params
  wp : s.wp = t.wp
  bitacc : s.bitacc = t.bitacc
  bitcnt : s.bitcnt = t.bitcnt
  output : ∀ a, a < s.wp.toNat → outByte s a = outByte t a

theorem outByte_appendByte (s : State) (b : Byte) (a : Nat) :
    outByte (s.appendByte b) a = if a = s.wp.toNat then b else outByte s a := by
  change ((s.outmem.write s.wp.toNat b).read a).getD (Config.outPowerOn a) = _
  rw [Memory.read_write]
  split <;> rfl

section
variable {s t : State}

theorem SameWriter.setBits (h : SameWriter s t) (acc : Byte) (cnt : Fin 8) :
    SameWriter (s.setBits acc cnt) (t.setBits acc cnt) :=
  ⟨h.params, h.wp, rfl, rfl, h.output⟩

theorem SameWriter.appendByte (h : SameWriter s t) (hroom : s.wp.toNat < s.params.outBytes) (b : Byte) :
    SameWriter (s.appendByte b) (t.appendByte b) where
  params := h.params
  wp := congrArg (· + 1) h.wp
  bitacc := h.bitacc
  bitcnt := h.bitcnt
  output a ha := by
    have hwp : (s.appendByte b).wp.toNat = s.wp.toNat + 1 := wp_succ_toNat hroom
    rw [outByte_appendByte, outByte_appendByte, ← h.wp]
    split
    · rfl
    · exact h.output a (by omega)

theorem SameWriter.emitByte (h : SameWriter s t) (b : Byte) : (emitByte b s).Alike SameWriter (emitByte b t) := by
  by_cases hfull : s.params.outBytes ≤ s.wp.toNat
  · rw [emitByte_of_full hfull, emitByte_of_full (by rwa [← h.params, ← h.wp])]
    exact ⟨rfl, rfl⟩
  · have hroom := Nat.not_le.mp hfull
    rw [emitByte_of_room hroom, emitByte_of_room (by rwa [← h.params, ← h.wp])]
    exact h.appendByte hroom b

theorem SameWriter.emitBytes (h : SameWriter s t) (bs : List Byte) :
    (emitBytes bs s).Alike SameWriter (emitBytes bs t) := by
  induction bs generalizing s t with
  | nil => exact h
  | cons b bs ih => exact (h.emitByte b).andThen fun u v => ih

theorem SameWriter.emitStuffed (h : SameWriter s t) (b : Byte) :
    (emitStuffed b s).Alike SameWriter (emitStuffed b t) := by
  refine ((h.emitByte b).andThen (S := SameWriter) fun u v huv => ?_).andThen fun u v huv => huv.setBits 0 0
  split
  · exact huv.emitByte 0x00
  · exact huv

theorem SameWriter.putBit (h : SameWriter s t) (bit : Bool) : (putBit bit s).Alike SameWriter (putBit bit t) := by
  unfold Machine.putBit
  rw [← h.bitacc, ← h.bitcnt]
  dsimp only
  split
  · exact (h.setBits _ 0).emitStuffed _
  · exact h.setBits _ _

theorem SameWriter.putBitList (h : SameWriter s t) (bits : List Bool) :
    (putBitList bits s).Alike SameWriter (putBitList bits t) := by
  induction bits generalizing s t with
  | nil => exact h
  | cons b bits ih => exact (h.putBit b).andThen fun u v => ih

theorem SameWriter.padBits (h : SameWriter s t) : (padBits s).Alike SameWriter (padBits t) := by
  unfold Machine.padBits
  rw [← h.bitcnt]
  split
  · rw [putBits_eq_list, putBits_eq_list]
    exact h.putBitList _
  · exact h

theorem SameWriter.codeAc (h : SameWriter s t) (c : Fin 2) (vs : List Coef) :
    (codeAc c vs 0 s).Alike SameWriter (codeAc c vs 0 t) := by
  by_cases hcoded : ∀ v ∈ vs, cat v.toInt ≤ 10
  · rw [codeAc_of_coded c vs 0 s hcoded, codeAc_of_coded c vs 0 t hcoded]
    exact h.putBitList _
  · have huncoded : ∃ v ∈ vs, 10 < cat v.toInt := by simpa using hcoded
    rw [codeAc_of_uncoded c vs 0 s huncoded, codeAc_of_uncoded c vs 0 t huncoded]
    exact (h.putBitList _).andThen fun u v _ => ⟨rfl, rfl⟩
end

/-! ### The inputs and SEQ -/

/-- SEQ names the same block of the same MCU in both. -/
structure SameBlock (s t : State) : Prop where
  mx : s.mx = t.mx
  my : s.my = t.my
  bi : s.bi = t.bi

section
variable {s t u v u' v' : State}

theorem pixByte_congr (h : t.pixmem = s.pixmem) (a : Nat) : pixByte t a = pixByte s a := by
  rw [pixByte, pixByte, h]

theorem SameInputs.congr (h : SameInputs s t) (hs : KeepsInputs s u) (ht : KeepsInputs t v) : SameInputs u v := by
  obtain ⟨hparams, hwidth, hheight, hquality, hpixLen, hpix⟩ := h
  refine ⟨?_, ?_, ?_, ?_, ?_, fun a ha hcolour => ?_⟩
  · rw [hs.params, ht.params, hparams]
  · rw [hs.width, ht.width, hwidth]
  · rw [hs.height, ht.height, hheight]
  · rw [hs.quality, ht.quality, hquality]
  · rw [hs.pixLen, ht.pixLen, hpixLen]
  · rw [bytesNeeded, hs.width, hs.height, ← bytesNeeded] at ha
    rw [pixByte_congr hs.pixmem, pixByte_congr ht.pixmem]
    exact hpix a ha hcolour

theorem bytesNeeded_congr (hwidth : t.width = s.width) (hheight : t.height = s.height) :
    bytesNeeded t = bytesNeeded s := by
  rw [bytesNeeded, bytesNeeded, hwidth, hheight]

/-- PixFetch reads the colour bytes of the image and nothing else of PIXMEM (spec/20_memory.md R68). -/
theorem pixFetch_eq_of_sameInputs (h : SameInputs s t) (hargs : ArgsOk s) (x y : Nat) :
    pixFetch t x y = pixFetch s x y := by
  obtain ⟨-, hwidth, hheight, -, -, hpix⟩ := h
  obtain ⟨hw, hh, -⟩ := hargs
  have hin := pixAddr_add_four_le hw hh x y
  have haddr : pixAddr t x y = pixAddr s x y := by simp only [pixAddr, hwidth, hheight]
  have hstart : pixAddr s x y % 4 = 0 := Nat.mul_mod_left _ 4
  simp only [pixFetch, haddr, Rgb.mk.injEq]
  exact ⟨(hpix _ (by omega) (by omega)).symm, (hpix _ (by omega) (by omega)).symm, (hpix _ (by omega) (by omega)).symm⟩

theorem convertMcu_eq_of_sameInputs (h : SameInputs s t) (hargs : ArgsOk s) (hblock : SameBlock s t) :
    convertMcu s = convertMcu t := by
  obtain ⟨-, hwidth, hheight, -⟩ := id h
  exact (convertMcu_congr hwidth.symm hheight.symm hblock.mx.symm hblock.my.symm
    (pixFetch_eq_of_sameInputs h hargs)).symm

/-- CHK looks at the inputs only. -/
theorem checkArguments_alike (h : SameInputs s t) : (checkArguments s).Alike (fun _ _ => True) (checkArguments t) := by
  obtain ⟨hparams, hwidth, hheight, -, hpixLen, -⟩ := h
  unfold checkArguments
  rw [bytesNeeded_congr hwidth hheight, hparams, hwidth, hheight, hpixLen]
  repeat' split
  case isFalse.isFalse.isFalse.isFalse => trivial
  all_goals exact ⟨rfl, rfl⟩

/-- HAC's advance looks at the size of the image and at SEQ. -/
theorem advanceHac_same (hwidth : u.width = v.width) (hheight : u.height = v.height) (h : SameBlock u v)
    (hu : advanceHac u = .next u') (hv : advanceHac v = .next v') : u'.uop = v'.uop ∧ SameBlock u' v' := by
  obtain ⟨hmx, hmy, hbi⟩ := h
  have hmcuW : mcuW v = mcuW u := by rw [mcuW, mcuW, hwidth]
  have hmcuH : mcuH v = mcuH u := by rw [mcuH, mcuH, hheight]
  unfold advanceHac at hu hv
  simp only [hmcuW, hmcuH, ← hmx, ← hmy, ← hbi] at hv
  split_ifs at hu hv <;> cases hu <;> cases hv
  · exact ⟨rfl, rfl, rfl, rfl⟩
  · exact ⟨rfl, rfl, rfl, rfl⟩
  · exact ⟨rfl, rfl, rfl, rfl⟩
  · exact ⟨rfl, hmx, hmy, hbi⟩

theorem uop_eq_of_decodeUop {a b : Byte} {j : Instr} (ha : decodeUop a = .ok j) (hb : decodeUop b = .ok j) : a = b :=
  Code.uop.inj ((encode_of_decodeUop ha).symm.trans (encode_of_decodeUop hb))
end

/-! ### The encode at each micro-operation (spec/40_driver.md R143) -/

/-- What the encode has written and will still read when `i` is the next micro-operation is the same in both. -/
structure SameStage (i : Instr) (s t : State) : Prop where
  writer : 2 ≤ rank i → SameWriter s t
  pred : 2 ≤ rank i → s.pred = t.pred
  block : 2 ≤ rank i → SameBlock s t
  tables : 3 ≤ rank i → s.qt = t.qt
  mcu : 14 ≤ rank i → rank i ≤ 19 → s.mcu = t.mcu
  sblk : i = .fdct → s.sblk = t.sblk
  fblk : i = .quant → s.fblk = t.fblk
  qblk : i = .zz → s.qblk = t.qblk
  zblk : i = .hdc ∨ i = .hac → s.zblk = t.zblk

section
variable {s t s' t' u v u' v' : State} {i j : Instr}

theorem sameStage_of_sameEncode (h : SameEncode s t) (hi : running s = some i) : SameStage i s t := by
  obtain ⟨⟨hparams, -⟩, -, -, -, -, hstages⟩ := h
  obtain ⟨hscan, htables, hmcu, hsblk, hfblk, hqblk, hzblk⟩ := hstages i hi
  refine ⟨fun hlow => ?_, fun hlow => ?_, fun hlow => ?_, htables, hmcu, hsblk, hfblk, hqblk, hzblk⟩
  all_goals obtain ⟨hwp, hacc, hcnt, hpred, hmx, hmy, hbi, hout⟩ := hscan hlow
  · exact ⟨hparams, hwp, hacc, hcnt, hout⟩
  · exact hpred
  · exact ⟨hmx, hmy, hbi⟩

theorem sameEncode_of_sameStage (hinputs : SameInputs s t) (hphase : s.phase = t.phase) (huop : s.uop = t.uop)
    (herr : s.err = t.err ∧ s.errInfo = t.errInfo) (hi : running s = some i) (h : SameStage i s t) : SameEncode s t := by
  refine ⟨hinputs, hphase, huop, herr.1, herr.2, fun j hj => ?_⟩
  cases hi.symm.trans hj
  refine ⟨fun hlow => ?_, h.tables, h.mcu, h.sblk, h.fblk, h.qblk, h.zblk⟩
  obtain ⟨-, hwp, hacc, hcnt, hout⟩ := h.writer hlow
  obtain ⟨hmx, hmy, hbi⟩ := h.block hlow
  exact ⟨hwp, hacc, hcnt, h.pred hlow, hmx, hmy, hbi, hout⟩

/-- At a micro-operation that reads no block buffer. -/
theorem sameStage_of_no_buffer (hi : rank i ≤ 14 ∨ 20 ≤ rank i) (hwriter : SameWriter s t) (hpred : s.pred = t.pred)
    (hblock : SameBlock s t) (htables : 3 ≤ rank i → s.qt = t.qt) (hmcu : rank i = 14 → s.mcu = t.mcu) :
    SameStage i s t where
  writer _ := hwriter
  pred _ := hpred
  block _ := hblock
  tables := htables
  mcu _ _ := hmcu (by omega)
  sblk h := by subst h; exact absurd hi (by decide)
  fblk h := by subst h; exact absurd hi (by decide)
  qblk h := by subst h; exact absurd hi (by decide)
  zblk h := by rcases h with rfl | rfl <;> exact absurd hi (by decide)

/-- CHK and INIT read nothing that the encode has written. -/
theorem sameStage_of_rank_le_one (h : rank i ≤ 1) (s t : State) : SameStage i s t where
  writer _ := by omega
  pred _ := by omega
  block _ := by omega
  tables _ := by omega
  mcu _ := by omega
  sblk hi := by subst hi; exact absurd h (by decide)
  fblk hi := by subst hi; exact absurd h (by decide)
  qblk hi := by subst hi; exact absurd h (by decide)
  zblk hi := by rcases hi with rfl | rfl <;> exact absurd h (by decide)

/-- Whichever micro-operation follows `i` finds the same. -/
def SameAfter (i : Instr) (s t : State) : Prop := ∀ j, Follows i j → SameStage j s t

/-! ### What a micro-operation makes of two encodes -/

theorem SameStage.of_bufferFrame (h : SameStage i s t) (hlow : 2 ≤ rank i) (hu : BufferFrame s u) (hv : BufferFrame t v) :
    SameWriter u v ∧ u.pred = v.pred ∧ SameBlock u v := by
  obtain ⟨hparams, hwp, hacc, hcnt, hout⟩ := h.writer hlow
  obtain ⟨hmx, hmy, hbi⟩ := h.block hlow
  rw [show u = _ from hu, show v = _ from hv]
  exact ⟨⟨hparams, hwp, hacc, hcnt, hout⟩, h.pred hlow, hmx, hmy, hbi⟩

/-- Stages that write the same values to the buffers leave two encodes the same at the next micro-operation. -/
theorem SameStage.alike_of_buffer (h : SameStage i s t) (hlow : 2 ≤ rank i) (hj : nextInOrder i = some j)
    (hu : BufferFrame s u) (hv : BufferFrame t v) (htables : u.qt = v.qt) (hmcu : 14 ≤ rank j → u.mcu = v.mcu)
    (hsblk : j = .fdct → u.sblk = v.sblk) (hfblk : j = .quant → u.fblk = v.fblk) (hqblk : j = .zz → u.qblk = v.qblk)
    (hzblk : j = .hdc ∨ j = .hac → u.zblk = v.zblk) :
    (Attempt.done u).Alike (SameAfter i) (.done v) := by
  refine fun k hk => ?_
  have hhac : i ≠ .hac := by
    rintro rfl
    cases hj
  cases hj.symm.trans (hk.next hhac)
  obtain ⟨hwriter, hpred, hblock⟩ := h.of_bufferFrame hlow hu hv
  exact ⟨fun _ => hwriter, fun _ => hpred, fun _ => hblock, fun _ => htables, fun hrank _ => hmcu hrank, hsblk, hfblk,
    hqblk, hzblk⟩

theorem Follows.eq_hac_of_blkld (h : Follows i j) (hi : i ≠ .csc) (hj : rank j = 14) : i = .hac := by
  rcases h with hnext | ⟨hhac, -⟩
  · revert hi
    cases i <;> cases hnext <;> revert hj <;> decide
  · exact hhac

/-- After a micro-operation that only writes to the output. -/
theorem SameStage.next_of_writer (h : SameStage i s t) (hrank : 3 ≤ rank i) (hcsc : i ≠ .csc) (hj : Follows i j)
    (hread : rank j ≤ 14 ∨ 20 ≤ rank j) (hu : WriterFrame s u) (hv : WriterFrame t v) (huv : SameWriter u v) :
    SameStage j u v := by
  have hpred := h.pred (by omega)
  obtain ⟨hmx, hmy, hbi⟩ := h.block (by omega)
  have htables := h.tables hrank
  have hmcu : rank j = 14 → s.mcu = t.mcu := fun hblkld => by
    obtain rfl := hj.eq_hac_of_blkld hcsc hblkld
    exact h.mcu (by decide) (by decide)
  rw [show u = _ from hu, show v = _ from hv] at huv ⊢
  exact sameStage_of_no_buffer hread huv hpred ⟨hmx, hmy, hbi⟩ (fun _ => htables) hmcu

/-- An attempt that only writes to the output leaves two encodes the same at the next micro-operation. -/
theorem SameStage.alike_of_writer {r q : Attempt} (h : SameStage i s t) (hrank : 3 ≤ rank i) (hcsc : i ≠ .csc)
    (hread : ∀ j, Follows i j → rank j ≤ 14 ∨ 20 ≤ rank j) (hr : WriterFrame s r.endState)
    (hq : WriterFrame t q.endState) (hrq : r.Alike SameWriter q) : r.Alike (SameAfter i) q :=
  hrq.of_endState hr hq fun _ _ hu hv huv j hj => h.next_of_writer hrank hcsc hj (hread j hj) hu hv huv

theorem segmentBytes_eq_of_same (hwidth : s.width = t.width) (hheight : s.height = t.height) (hqt : s.qt = t.qt)
    (i : Instr) : segmentBytes s i = segmentBytes t i := by
  cases i <;> simp only [segmentBytes, hwidth, hheight, hqt]

/-- A marker writes the same segment in both. -/
theorem SameStage.alike_of_segment {bytes : List Byte} (h : SameStage i s t) (hinputs : SameInputs s t)
    (hsegment : segmentBytes s i = some bytes) : (instrBody s i).Alike (SameAfter i) (instrBody t i) := by
  have hrank : 3 ≤ rank i := by cases i <;> cases hsegment <;> decide
  obtain ⟨-, hwidth, hheight, -⟩ := hinputs
  have hsegment' : segmentBytes t i = some bytes :=
    (segmentBytes_eq_of_same hwidth hheight (h.tables hrank) i).symm.trans hsegment
  rw [instrBody_of_segment hsegment, instrBody_of_segment hsegment']
  refine h.alike_of_writer hrank ?_ (fun j hj => ?_) (writerFrame_emitBytes _ _) (writerFrame_emitBytes _ _)
    ((h.writer (by omega)).emitBytes bytes)
  · rintro rfl
    cases hsegment
  · have hhac : i ≠ .hac := by
      rintro rfl
      cases hsegment
    have hnext := hj.next hhac
    cases i <;> cases hsegment <;> cases hnext <;> decide

/-- HDC codes the same difference in both. -/
theorem codeDc_alike (h : SameStage .hdc s t) : (codeDc s).Alike (SameAfter .hdc) (codeDc t) := by
  have hpred := h.pred (by decide)
  obtain ⟨hmx, hmy, hbi⟩ := h.block (by decide)
  have hzblk := h.zblk (.inl rfl)
  have htables := h.tables (by decide)
  have hmcu := h.mcu (by decide) (by decide)
  have hdiff : dcDiff t = dcDiff s := by simp only [dcDiff, predOf, hzblk, hpred, hbi]
  by_cases hcoded : cat (dcDiff s) ≤ 11
  case neg =>
    rw [codeDc_of_uncoded (Nat.not_le.mp hcoded), codeDc_of_uncoded (by rw [hdiff]; exact Nat.not_le.mp hcoded)]
    exact ⟨rfl, rfl⟩
  rw [codeDc_of_coded hcoded, codeDc_of_coded (s := t) (by rwa [hdiff]), hdiff, ← hbi]
  have hput := ((h.writer (by decide)).putBitList (dcBits (tabOf s.bi) (dcDiff s))).of_endState
    (writerFrame_putBitList _ s) (writerFrame_putBitList _ t) fun u v hu hv huv => And.intro hu (And.intro hv huv)
  refine hput.andThen fun u v ⟨hu, hv, huv⟩ j hj => ?_
  cases hj.next (by decide)
  rw [show u = _ from hu, show v = _ from hv] at huv ⊢
  obtain ⟨hparams, hwp, hacc, hcnt, hout⟩ := huv
  refine ⟨fun _ => ⟨hparams, hwp, hacc, hcnt, hout⟩, fun _ => ?_, fun _ => ⟨hmx, hmy, hbi⟩, fun _ => htables,
    fun _ _ => hmcu, nofun, nofun, nofun, fun _ => hzblk⟩
  simp only [State.setPred, hpred, hzblk]

/-- A micro-operation before FIN comes to the same in both: it raises the same error, or it completes and the next one finds
the same. -/
theorem instrBody_alike (hi : 1 ≤ rank i ∨ i = .chk) (hfin : i ≠ .fin) (hinputs : SameInputs s t)
    (hargs : 1 ≤ rank i → ArgsOk s) (h : SameStage i s t) : (instrBody s i).Alike (SameAfter i) (instrBody t i) := by
  cases i
  case nop | start => exact absurd hi (by decide)
  case fin => exact absurd rfl hfin
  case chk =>
    refine (checkArguments_alike hinputs).of_endState (P := fun _ => True) (Q := fun _ => True) trivial trivial
      fun u v _ _ _ j hj => ?_
    cases hj.next (by decide)
    exact sameStage_of_rank_le_one (by decide) u v
  case init =>
    refine fun j hj => ?_
    cases hj.next (by decide)
    obtain ⟨hparams, -⟩ := hinputs
    exact sameStage_of_no_buffer (by decide) ⟨hparams, rfl, rfl, rfl, fun a ha => absurd ha (Nat.not_lt_zero a)⟩ rfl
      ⟨rfl, rfl, rfl⟩ (fun hrank => absurd hrank (by decide)) (fun hrank => absurd hrank (by decide))
  case qtgen =>
    obtain ⟨-, -, -, hquality, -⟩ := hinputs
    exact h.alike_of_buffer (by decide) rfl rfl rfl (congrArg quantTables hquality) (fun h => absurd h (by decide))
      nofun nofun nofun nofun
  case wsoi | wapp0 | wdqt0 | wdqt1 | wsof0 | wdht0 | wdht1 | wdht2 | wdht3 | wsos | weoi =>
    exact h.alike_of_segment hinputs rfl
  case csc =>
    have hmcu := convertMcu_eq_of_sameInputs hinputs (hargs (by decide)) (h.block (by decide))
    exact h.alike_of_buffer (by decide) rfl rfl rfl (h.tables (by decide)) (fun _ => hmcu) nofun nofun nofun nofun
  case blkld =>
    have hmcu := h.mcu (by decide) (by decide)
    have hsblk : loadBlock s.mcu s.bi = loadBlock t.mcu t.bi := by rw [hmcu, (h.block (by decide)).bi]
    exact h.alike_of_buffer (by decide) rfl rfl rfl (h.tables (by decide)) (fun _ => hmcu) (fun _ => hsblk) nofun nofun
      nofun
  case fdct =>
    exact h.alike_of_buffer (by decide) rfl rfl rfl (h.tables (by decide)) (fun _ => h.mcu (by decide) (by decide)) nofun
      (fun _ => congrArg forwardDct (h.sblk rfl)) nofun nofun
  case quant =>
    have htables := h.tables (by decide)
    have hqblk : quantBlock s = quantBlock t := by
      simp only [quantBlock, divisor, htables, h.fblk rfl, (h.block (by decide)).bi]
    exact h.alike_of_buffer (by decide) rfl rfl rfl htables (fun _ => h.mcu (by decide) (by decide)) nofun nofun
      (fun _ => hqblk) nofun
  case zz =>
    exact h.alike_of_buffer (by decide) rfl rfl rfl (h.tables (by decide)) (fun _ => h.mcu (by decide) (by decide)) nofun
      nofun nofun fun _ => congrArg zigzagOrder (h.qblk rfl)
  case hdc => exact codeDc_alike h
  case hac =>
    have hcoefs : acCoefs t = acCoefs s := by rw [acCoefs, acCoefs, h.zblk (.inr rfl)]
    have hbi := (h.block (by decide)).bi
    rw [instrBody, instrBody, hcoefs, ← hbi]
    refine h.alike_of_writer (by decide) (by decide) (fun j hj => ?_) (writerFrame_codeAc _ _ _ _)
      (writerFrame_codeAc _ _ _ _) ((h.writer (by decide)).codeAc _ _)
    rcases hj with hnext | ⟨-, rfl | rfl | rfl⟩
    · cases hnext
    all_goals decide
  case flush =>
    refine h.alike_of_writer (by decide) (by decide) (fun j hj => ?_) (writerFrame_padBits s) (writerFrame_padBits t)
      (h.writer (by decide)).padBits
    cases hj.next (by decide)
    decide

/-! ### The CORE's step -/

/-- SEQ advances to the same micro-operation, which finds the same. -/
theorem SameStage.of_advance (h : SameStage j u v) (hu : advance i u = .next u') (hv : advance i v = .next v')
    (hblock : 2 ≤ rank j → SameBlock u' v') : SameStage j u' v' := by
  have hwriter : 2 ≤ rank j → SameWriter u' v' := fun hlow => by
    obtain ⟨hparams, hwp, hacc, hcnt, hout⟩ := h.writer hlow
    rw [advance_frame hu, advance_frame hv]
    exact ⟨hparams, hwp, hacc, hcnt, hout⟩
  obtain ⟨-, hpred, -, htables, hmcu, hsblk, hfblk, hqblk, hzblk⟩ := h
  refine ⟨hwriter, ?_, hblock, ?_, ?_, ?_, ?_, ?_, ?_⟩ <;> rw [advance_frame hu, advance_frame hv] <;> assumption

theorem sameStage_next (hnop : i ≠ .nop) (hstart : i ≠ .start) (hfin : i ≠ .fin)
    (hsize : u.width = v.width ∧ u.height = v.height) (h : SameAfter i u v) (hu : advance i u = .next u')
    (hv : advance i v = .next v') :
    ∃ j, decodeUop u'.uop = .ok j ∧ u'.uop = v'.uop ∧ SameStage j u' v' := by
  obtain ⟨j, hj, hdecode⟩ := advance_follows hnop hstart hfin hu
  by_cases hhac : i = .hac
  · subst hhac
    have hblock : SameBlock u v := (h .blkld (.inr ⟨rfl, .inl rfl⟩)).block (by decide)
    obtain ⟨huop, hblock'⟩ := advanceHac_same hsize.1 hsize.2 hblock hu hv
    exact ⟨j, hdecode, huop, (h j hj).of_advance hu hv fun _ => hblock'⟩
  · obtain ⟨-, hmx, hmy, hcsc, hbi⟩ := advance_of_nextInOrder (hj.next hhac) hu
    obtain ⟨hdecode', hmx', hmy', hcsc', hbi'⟩ := advance_of_nextInOrder (hj.next hhac) hv
    refine ⟨j, hdecode, uop_eq_of_decodeUop hdecode hdecode', (h j hj).of_advance hu hv fun hlow => ?_⟩
    obtain ⟨hx, hy, hb⟩ := (h j hj).block hlow
    refine ⟨by rw [hmx, hmx', hx], by rw [hmy, hmy', hy], ?_⟩
    by_cases hi : i = .csc
    · rw [hcsc hi, hcsc' hi]
    · rw [hbi hi, hbi' hi, hb]

/-- The error record names the cause, the micro-operation and, inside a block, the block. -/
theorem enterError_same (hblock : inBlock i = true → SameBlock u v) (c : ErrorCode) (e : BitVec 4) :
    SameResult (enterError i c e u) (enterError i c e v) := by
  obtain ⟨hlen, hread⟩ := output_hidden (s := enterError i c e u) (by simp)
  obtain ⟨hlen', hread'⟩ := output_hidden (s := enterError i c e v) (by simp)
  refine ⟨rfl, ?_, ?_, hlen.trans hlen'.symm, fun a => (hread a).trans (hread' a).symm⟩
  all_goals
    simp only [enterError_err, enterError_errInfo]
    by_cases hin : inBlock i = true
    · obtain ⟨hmx, hmy, hbi⟩ := hblock hin
      simp only [hmx, hmy, hbi]
    · simp only [if_neg hin]

/-- FIN shows the same output in both. -/
theorem commit_same (hwriter : SameWriter s t) (herr : s.err = t.err ∧ s.errInfo = t.errInfo) :
    SameResult (commit s) (commit t) := by
  have hlen : outLen (commit s) = outLen (commit t) := hwriter.wp
  refine ⟨rfl, herr.1, herr.2, hlen, fun a => ?_⟩
  by_cases ha : a < s.wp.toNat
  · have hout : outByte (commit s) a = outByte (commit t) a := hwriter.output a ha
    have hparams : (commit s).params = (commit t).params := hwriter.params
    rw [outReadValue, outReadValue, hlen, hout, hparams]
  · rw [outReadValue_of_gated (s := commit s) (.inr (Nat.not_lt.mp ha)),
      outReadValue_of_gated (s := commit t) (.inr (hwriter.wp ▸ Nat.not_lt.mp ha))]

/-- `s` and `t` are still the same encode, or both have ended with results that the host cannot tell apart. -/
def SameNext (s t : State) : Prop := (s.phase = .busy ∧ SameEncode s t) ∨ (s.phase ≠ .busy ∧ SameResult s t)

/-- A micro-operation that completes in both leaves them the same. -/
theorem sameNext_of_done (hi : running s = some i) (hfin : i ≠ .fin) (h : SameEncode s t) (hs : exec i s = .next u)
    (ht : exec i t = .next v) (hbody : instrBody s i = .done s') (hbody' : instrBody t i = .done t')
    (hafter : SameAfter i s' t') : SameNext u v := by
  obtain ⟨hnop, hstart⟩ := ne_command_of_running hi
  obtain ⟨hbusy, -⟩ := running_eq_some_iff.mp hi
  obtain ⟨hinputs, hphase, -, herr, herrInfo, -⟩ := h
  have hadvance := finish_of_exec_next hs
  have hadvance' := finish_of_exec_next ht
  have hkeep := instrBody_keepsInputs s i
  have hkeep' := instrBody_keepsInputs t i
  rw [hbody, finish_done] at hadvance
  rw [hbody', finish_done] at hadvance'
  rw [hbody, endState_done] at hkeep
  rw [hbody', endState_done] at hkeep'
  obtain ⟨-, hwidth, hheight, -⟩ := SameInputs.congr hinputs hkeep hkeep'
  obtain ⟨j, hdecode, huop, hsame⟩ := sameStage_next hnop hstart hfin ⟨hwidth, hheight⟩ hafter hadvance hadvance'
  have hbusyU : u.phase = .busy := by
    rw [advance_frame hadvance]
    exact (instrBody_phase hnop hstart hfin hbody).trans hbusy
  have hbusyV : v.phase = .busy := by
    rw [advance_frame hadvance']
    exact (instrBody_phase hnop hstart hfin hbody').trans (hphase.symm.trans hbusy)
  have hrecord : u.err = v.err ∧ u.errInfo = v.errInfo := by
    obtain ⟨hx, hy⟩ := instrBody_errorRecord hstart hbody
    obtain ⟨hx', hy'⟩ := instrBody_errorRecord hstart hbody'
    rw [advance_frame hadvance, advance_frame hadvance']
    exact ⟨by rw [hx, hx', herr], by rw [hy, hy', herrInfo]⟩
  exact .inl ⟨hbusyU, sameEncode_of_sameStage (SameInputs.congr hinputs (exec_keepsInputs hs) (exec_keepsInputs ht))
    (hbusyU.trans hbusyV.symm) huop hrecord (running_eq_some_iff.mpr ⟨hbusyU, hdecode⟩) hsame⟩

/-- A micro-operation that raises the same error in both ends both. -/
theorem sameNext_of_raised {c : ErrorCode} {e : BitVec 4} (hstage : SameStage i s t) (hs : exec i s = .next u)
    (ht : exec i t = .next v) (hbody : instrBody s i = .raised c e s') (hbody' : instrBody t i = .raised c e t') :
    SameNext u v := by
  have hraise := finish_of_exec_next hs
  have hraise' := finish_of_exec_next ht
  rw [hbody, finish_raised] at hraise
  rw [hbody', finish_raised] at hraise'
  cases hraise
  cases hraise'
  refine .inr ⟨Phase.noConfusion, enterError_same (fun hin => ?_) c e⟩
  have hlow : 2 ≤ rank i := by
    revert hin
    cases i <;> decide
  obtain ⟨hmx, hmy, hbi⟩ := hstage.block hlow
  rw [show s' = _ from instrBody_raised_frame hbody, show t' = _ from instrBody_raised_frame hbody']
  exact ⟨hmx, hmy, hbi⟩

/-- One micro-operation in each of two encodes that are the same. -/
theorem exec_same (hinv : Inv s) (hi : running s = some i) (h : SameEncode s t) (hs : exec i s = .next u)
    (ht : exec i t = .next v) : SameNext u v := by
  have hstage := sameStage_of_sameEncode h hi
  obtain ⟨hinputs, -, -, herr, herrInfo, -⟩ := id h
  by_cases hfin : i = .fin
  · subst hfin
    cases hs
    cases ht
    exact .inr ⟨Phase.noConfusion, commit_same (hstage.writer (by decide)) ⟨herr, herrInfo⟩⟩
  obtain ⟨hargs, -⟩ := stageOk_of_inv hinv hi
  have hplace : 1 ≤ rank i ∨ i = .chk := by
    obtain ⟨hnop, hstart⟩ := ne_command_of_running hi
    revert hnop hstart
    cases i <;> decide
  rcases (instrBody_alike hplace hfin hinputs hargs hstage).cases with
    ⟨s', t', hbody, hbody', hafter⟩ | ⟨c, e, s', t', hbody, hbody'⟩
  · exact sameNext_of_done hi hfin h hs ht hbody hbody' hafter
  · exact sameNext_of_raised hstage hs ht hbody hbody'

/-! ### Steps of the two machines -/

theorem phase_eq_of_sameEncode (h : SameEncode s t) : s.phase = t.phase := by
  obtain ⟨-, hphase, -⟩ := h
  exact hphase

/-- Two machines that are in the same encode run the same micro-operation. -/
theorem running_eq_of_sameEncode (h : SameEncode s t) : running t = running s := by
  obtain ⟨-, hphase, huop, -⟩ := h
  exact running_congr hphase.symm huop.symm

theorem step_same (hinv : Inv s) (hinv' : Inv t) (hbusy : s.phase = .busy) (h : SameEncode s t) (hcore : CoreMoves s)
    (hcore' : CoreMoves t) : ∃ u v, step s = .next u ∧ step t = .next v ∧ SameNext u v := by
  obtain ⟨i, hi⟩ := running_isSome_of_inv hinv hbusy
  have hi' : running t = some i := (running_eq_of_sameEncode h).trans hi
  obtain ⟨u, hu⟩ := exec_next_of_placeOk (s := coreState s) (placeOk_of_inv hinv hi)
  obtain ⟨v, hv⟩ := exec_next_of_placeOk (s := coreState t) (placeOk_of_inv hinv' hi')
  exact ⟨u, v, (step_of_running hcore hi).trans hu, (step_of_running hcore' hi').trans hv,
    exec_same (s := coreState s) (t := coreState t) hinv hi h hu hv⟩

/-- A host access while BUSY changes nothing that makes two encodes the same. -/
theorem step_same_of_hostMoves (hbusy : s.phase = .busy) (hhost : HostMoves s) :
    ∃ u, step s = .next u ∧ u.sched = s.sched.tail ∧ u.phase = .busy ∧ (∀ t, SameEncode s t → SameEncode u t) ∧
      ∀ t, SameEncode t s → SameEncode t u := by
  obtain ⟨u, hstep, hframe⟩ := step_of_hostMoves hhost hbusy
  refine ⟨u, hstep, ?_⟩
  rw [hframe]
  exact ⟨rfl, hbusy, fun _ h => h, fun _ h => h⟩
end

/-- Settles O58: the CORE by the micro-operation, whose body comes to the same in both; the host because it changes BADCMD
and what it has read at most. -/
theorem sameEncodesStaySame : Obligations.SameEncodesStaySame := by
  refine ⟨fun s t hinv hinv' hbusy h hcore hcore' => step_same hinv hinv' hbusy h hcore hcore',
    fun s t hbusy h hhost => ?_, fun s t hbusy h hhost => ?_⟩
  · obtain ⟨u, hstep, -, hbusy', hleft, -⟩ := step_same_of_hostMoves hbusy hhost
    exact ⟨u, hstep, hbusy', hleft t h⟩
  · obtain ⟨u, hstep, -, hbusy', -, hright⟩ := step_same_of_hostMoves hbusy hhost
    exact ⟨u, hstep, hbusy', hright s h⟩

end Sys2Proof.Machine
end

section
/-! The result of an encode: two encodes that start at CHK from the same inputs end with results that the host cannot tell
apart, however the host's accesses are interleaved with them (spec/40_driver.md R143). -/

namespace Sys2Proof.Machine

section
variable {s t s' t' u v : State} {n m : Nat}

/-! ### Who moves while BUSY -/

theorem coreMoves_or_hostMoves (hreset : .reset ∉ s.sched) : CoreMoves s ∨ HostMoves s := by
  by_cases hcore : CoreMoves s
  · exact .inl hcore
  · obtain ⟨e, rest, hs, he⟩ := pending_of_not_coreMoves hcore
    rw [hs, List.mem_cons, not_or] at hreset
    refine .inr ⟨by rw [hs]; exact List.cons_ne_nil e rest, ?_, ?_⟩
    all_goals rw [hs, List.head?_cons, ne_eq, Option.some.injEq]
    · exact he
    · exact fun h => hreset.1 h.symm

theorem reset_notMem_tail (hreset : .reset ∉ s.sched) (h : u.sched = s.sched.tail) : .reset ∉ u.sched := fun hmem =>
  hreset (List.mem_of_mem_tail (h ▸ hmem))

/-- The CORE's step takes at most its own event from `sched`. -/
theorem sched_of_coreStep (hinv : Inv s) (hbusy : s.phase = .busy) (hcore : CoreMoves s) (h : step s = .next u) :
    u.sched = s.sched.tail := by
  obtain ⟨i, hi⟩ := running_isSome_of_inv hinv hbusy
  obtain ⟨w, hstep, hsched, -⟩ := step_progress hcore hi (placeOk_of_inv hinv hi)
  cases h.symm.trans hstep
  exact hsched

/-! ### The first state that is no longer BUSY -/

/-- An encode that is BUSY ends after its next step. -/
theorem EndsIn.exists_succ (h : EndsIn n s s') (hbusy : s.phase = .busy) : ∃ k, n = k + 1 := by
  obtain ⟨hrun, hend, -⟩ := h
  cases n with
  | zero =>
    cases hrun
    exact absurd hbusy hend
  | succ k => exact ⟨k, rfl⟩

theorem EndsIn.tail (h : EndsIn (n + 1) s s') (hstep : step s = .next u) : EndsIn n u s' := by
  obtain ⟨hrun, hend, hbefore⟩ := h
  refine ⟨(run_succ hstep).symm.trans hrun, hend, fun k w hk hw => ?_⟩
  exact hbefore (k + 1) w (Nat.succ_lt_succ hk) ((run_succ hstep).trans hw)

/-- Where the encode has left BUSY it has ended. -/
theorem EndsIn.eq_of_not_busy (h : EndsIn n s s') (hidle : s.phase ≠ .busy) : s' = s := by
  obtain ⟨hrun, -, hbefore⟩ := h
  cases n with
  | zero =>
    cases hrun
    rfl
  | succ n => exact absurd (hbefore 0 s (Nat.succ_pos n) rfl) hidle

/-! ### Two encodes -/

/-- By induction on the steps of both: a host access is a step of one of them, else the CORE moves in both. -/
theorem sameResult_of_endsIn (hinv : Inv s) (hinv' : Inv t) (hbusy : s.phase = .busy) (h : SameEncode s t)
    (hreset : .reset ∉ s.sched) (hreset' : .reset ∉ t.sched) (hs : EndsIn n s s') (ht : EndsIn m t t') :
    SameResult s' t' := by
  induction hsteps : n + m using Nat.strong_induction_on generalizing n m s t with
  | _ steps ih =>
  subst hsteps
  have hbusy' : t.phase = .busy := (phase_eq_of_sameEncode h).symm.trans hbusy
  obtain ⟨n, rfl⟩ := hs.exists_succ hbusy
  obtain ⟨m, rfl⟩ := ht.exists_succ hbusy'
  rcases coreMoves_or_hostMoves hreset with hcore | hhost
  case inr =>
    obtain ⟨u, hstep, hsched, hbusyU, hleft, -⟩ := step_same_of_hostMoves hbusy hhost
    exact ih _ (by omega) (stepKeepsTheInvariant s u hinv hstep) hinv' hbusyU (hleft t h)
      (reset_notMem_tail hreset hsched) hreset' (hs.tail hstep) ht rfl
  rcases coreMoves_or_hostMoves hreset' with hcore' | hhost
  case inr =>
    obtain ⟨v, hstep, hsched, -, -, hright⟩ := step_same_of_hostMoves hbusy' hhost
    exact ih _ (by omega) hinv (stepKeepsTheInvariant t v hinv' hstep) hbusy (hright s h) hreset
      (reset_notMem_tail hreset' hsched) hs (ht.tail hstep) rfl
  obtain ⟨u, v, hu, hv, ⟨hbusyU, hsame⟩ | ⟨hidle, hsame⟩⟩ := step_same hinv hinv' hbusy h hcore hcore'
  · exact ih _ (by omega) (stepKeepsTheInvariant s u hinv hu) (stepKeepsTheInvariant t v hinv' hv) hbusyU hsame
      (reset_notMem_tail hreset (sched_of_coreStep hinv hbusy hcore hu))
      (reset_notMem_tail hreset' (sched_of_coreStep hinv' hbusy' hcore' hv)) (hs.tail hu) (ht.tail hv) rfl
  · have hidle' : v.phase ≠ .busy := fun hv => hidle (hsame.1.trans hv)
    rwa [(hs.tail hu).eq_of_not_busy hidle, (ht.tail hv).eq_of_not_busy hidle']

/-- With no event pending both end within the steps that remain, by induction on these. -/
theorem sameResult_of_run {i : Instr} (hinv : Inv s) (hinv' : Inv t) (h : SameEncode s t) (hidle : s.sched = [])
    (hidle' : t.sched = []) (hi : running s = some i) (hn : stepsLeft i s = n) :
    ∃ s' t', Sys2Proof.core.run n s = .next s' ∧ Sys2Proof.core.run n t = .next t' ∧ s'.phase ≠ .busy ∧
      SameResult s' t' := by
  induction n generalizing s t i with
  | zero => exact absurd hn (Nat.pos_iff_ne_zero.mp (stepsLeft_pos i s))
  | succ n ih =>
    obtain ⟨hbusy, -⟩ := running_eq_some_iff.mp hi
    have hbusy' : t.phase = .busy := (phase_eq_of_sameEncode h).symm.trans hbusy
    obtain ⟨u, v, hu, hv, hnext⟩ := step_same hinv hinv' hbusy h (.inl hidle) (.inl hidle')
    have hidleU : u.sched = [] := by rw [sched_of_coreStep hinv hbusy (.inl hidle) hu, hidle, List.tail_nil]
    have hidleV : v.sched = [] := by rw [sched_of_coreStep hinv' hbusy' (.inl hidle') hv, hidle', List.tail_nil]
    rw [run_succ hu, run_succ hv]
    rcases hnext with ⟨hbusyU, hsame⟩ | ⟨hend, hsame⟩
    · obtain ⟨w, hstep, -, hprogress⟩ := step_progress (.inl hidle) hi (placeOk_of_inv hinv hi)
      cases hu.symm.trans hstep
      rcases hprogress with ⟨hdone, -⟩ | herror | ⟨j, hj, -, hleft⟩
      · cases hbusyU.symm.trans hdone
      · cases hbusyU.symm.trans herror
      · exact ih (stepKeepsTheInvariant s u hinv hu) (stepKeepsTheInvariant t v hinv' hv) hsame hidleU hidleV hj
          (by omega)
    · have hend' : v.phase ≠ .busy := fun hv => hend (hsame.1.trans hv)
      exact ⟨u, v, run_of_not_busy n hidleU hend, run_of_not_busy n hidleV hend', hend, hsame⟩

/-- At CHK nothing but the inputs matters. -/
theorem sameEncode_of_chk (hinv : Inv s) (hinv' : Inv t) (h : SameInputs s t) (hi : running s = some .chk)
    (hi' : running t = some .chk) : SameEncode s t := by
  obtain ⟨hbusy, hdecode⟩ := running_eq_some_iff.mp hi
  obtain ⟨hbusy', hdecode'⟩ := running_eq_some_iff.mp hi'
  obtain ⟨herr, herrInfo⟩ := err_eq_zero_of_inv hinv (by rw [hbusy]; decide)
  obtain ⟨herr', herrInfo'⟩ := err_eq_zero_of_inv hinv' (by rw [hbusy']; decide)
  exact sameEncode_of_sameStage h (hbusy.trans hbusy'.symm) (uop_eq_of_decodeUop hdecode hdecode')
    ⟨herr.trans herr'.symm, herrInfo.trans herrInfo'.symm⟩ hi (sameStage_of_rank_le_one (by decide) s t)
end

/-- Settles O59: at CHK the two encodes are the same, and they stay so in every step until both have ended. -/
theorem resultDependsOnInputsOnly : Obligations.ResultDependsOnInputsOnly := by
  intro s t hinv hinv' hinputs hi hi'
  have hsame := sameEncode_of_chk hinv hinv' hinputs hi hi'
  obtain ⟨hbusy, -⟩ := running_eq_some_iff.mp hi
  refine ⟨fun n m s' t' hreset hreset' hs ht => ?_, fun hidle hidle' => ?_⟩
  · exact sameResult_of_endsIn hinv hinv' hbusy hsame hreset hreset' hs ht
  · exact sameResult_of_run hinv hinv' hsame hidle hidle' hi (stepsLeft_of_header (by decide))

end Sys2Proof.Machine
end

section
/-! The driver: the instruction that a step runs, the two commands and their refusal, and the micro-operations CHK, INIT and
FIN (spec/40_driver.md R130 to R137). -/

namespace Sys2Proof.Machine

section
variable {s t : State} {rest : List Event}

/-! ### Commands (spec/40_driver.md R130 to R132) -/

theorem nextAction_of_command {w : Word} (h : s.sched = .regWrite 0x00 w :: rest) :
    nextAction s = commandAction w { s with sched := rest } := by
  have hcmd : 0x00 = regOffset .cmd := rfl
  rw [nextAction_of_pending h, eventAction, if_pos hcmd]

theorem commandAction_of_decode {w : Word} {i : Instr} (h : decodeCommand w = .ok i) (s : State) :
    commandAction w s = .run i s := by
  rw [commandAction, h]

/-- Words from 2 on encode no command (spec/30_encoding.md R91). -/
theorem commandAction_of_illegal {w : Word} (h : 2 ≤ w.toNat) (s : State) :
    commandAction w s = .settle (refuseCommand s) := by
  refine (commandAction_cases w s).resolve_right fun ⟨i, hi, hrun⟩ => ?_
  unfold commandAction at hrun
  split at hrun
  next hdecode =>
    cases hrun
    have hcode := encode_of_decodeCommand hdecode
    rcases hi with rfl | rfl <;> cases hcode <;> exact absurd h (by decide)
  · cases hrun

theorem exec_nop (s : State) : exec .nop s = .next s := rfl

theorem exec_start_of_busy (h : s.phase = .busy) : exec .start s = .next (refuseCommand s) := if_pos h

theorem exec_start_of_not_busy (h : s.phase ≠ .busy) : exec .start s = .next (acceptStart s) := if_neg h

/-- After START, accepted or refused, the machine is BUSY. -/
theorem phase_of_exec_start (h : exec .start s = .next t) : t.phase = .busy := by
  by_cases hbusy : s.phase = .busy
  · rw [exec_start_of_busy hbusy] at h
    cases h
    exact hbusy
  · rw [exec_start_of_not_busy hbusy] at h
    cases h
    rfl

/-! ### Who writes BADCMD (spec/40_driver.md R131, R132) -/

theorem instrBody_badcmd {i : Instr} (hstart : i ≠ .start) (h : instrBody s i = .done t) : t.badcmd = s.badcmd := by
  by_cases hmore : i = .init ∨ i = .fin
  · rcases hmore with rfl | rfl <;> cases h <;> rfl
  · obtain ⟨hinit, hfin⟩ := not_or.mp hmore
    rw [show t = _ from instrBody_datapathFrame hstart hinit hfin h]

/-- Only START writes BADCMD. -/
theorem exec_badcmd {i : Instr} (hstart : i ≠ .start) (h : exec i s = .next t) : t.badcmd = s.badcmd := by
  rcases exec_next_cases h with ⟨u, hbody, hadvance⟩ | ⟨c, e, u, hbody, rfl⟩
  · have hadv : t.badcmd = u.badcmd := by rw [advance_frame hadvance]
    exact hadv.trans (instrBody_badcmd hstart hbody)
  · rw [enterError_badcmd, show u = _ from instrBody_raised_frame hbody]

/-- A START that is refused sets BADCMD. -/
theorem not_busy_of_exec_start (h : exec .start s = .next t) (hclear : t.badcmd = false) : s.phase ≠ .busy := by
  intro hbusy
  rw [exec_start_of_busy hbusy] at h
  cases h
  cases hclear

theorem writeConfig_badcmd (s : State) (off : BitVec 12) (v : Word) : (writeConfig s off v).badcmd = s.badcmd := by
  unfold writeConfig
  repeat' split
  all_goals rfl

/-- Of the events that are settled at once only RESET clears BADCMD. -/
theorem badcmd_of_settle {e : Event} (hcore : e ≠ .core) (hreset : e ≠ .reset) (h : eventAction e s = .settle t)
    (hset : s.badcmd = true) : t.badcmd = true := by
  cases e with
  | core => exact absurd rfl hcore
  | reset => exact absurd rfl hreset
  | regWrite off v =>
    rw [eventAction] at h
    split at h
    · rcases commandAction_cases v s with hrefuse | ⟨i, -, hrun⟩
      · rw [hrefuse] at h; cases h; rfl
      · rw [hrun] at h; cases h
    · cases h
      unfold hostRegWrite
      split
      · exact (writeConfig_badcmd s off v).trans hset
      · exact hset
  | pixWrite a b =>
    cases h
    unfold hostPixWrite
    split <;> exact hset
  | regRead off | pixRead a | outRead a => cases h; exact hset

/-- A step that clears BADCMD is RESET or an accepted START. -/
theorem reset_or_start_of_badcmd_cleared (h : step s = .next t) (hset : s.badcmd = true) (hclear : t.badcmd = false) :
    s.sched.head? = some .reset ∨ s.sched.head? = some (.regWrite 0x00 0x00000001) ∧ s.phase ≠ .busy := by
  have hkept : t.badcmd ≠ s.badcmd := by
    rw [hset, hclear]
    decide
  by_cases hcore : CoreMoves s
  · by_cases hbusy : s.phase = .busy
    · cases hi : running s with
      | none =>
        rw [step_of_unused hcore hbusy hi] at h
        cases h
      | some i =>
        obtain ⟨-, hstart⟩ := ne_command_of_running hi
        rw [step_of_running hcore hi] at h
        exact absurd (exec_badcmd hstart h) hkept
    · rw [step_of_coreMoves_of_not_busy hcore hbusy] at h
      cases h
      exact absurd rfl hkept
  · obtain ⟨e, rest, hs, he⟩ := pending_of_not_coreMoves hcore
    have haction := nextAction_of_pending hs
    rcases eventAction_cases he { s with sched := rest } with ⟨u, hsettle⟩ | ⟨i, hi, hrun⟩
    · rw [step_settle (haction.trans hsettle)] at h
      cases h
      by_cases hreset : e = .reset
      · exact .inl (by rw [hs, hreset]; rfl)
      · cases hclear.symm.trans (badcmd_of_settle (s := { s with sched := rest }) he hreset hsettle hset)
    · rw [step_run (haction.trans hrun)] at h
      rcases hi with rfl | rfl
      · exact absurd (exec_badcmd (by decide) h) hkept
      · refine .inr ⟨by rw [hs, eq_start_of_run he hrun]; rfl, ?_⟩
        exact not_busy_of_exec_start (s := { s with sched := rest }) h hclear

/-! ### CHK (spec/40_driver.md R135) -/

/-- The number of the first check that fails, where one does. -/
def failedCheck (s : State) : BitVec 4 :=
  if s.width = 0 then 1 else if s.height = 0 then 2 else if s.pixLen.toNat ≠ bytesNeeded s then 3 else 4

theorem checkArguments_of_argsOk (h : ArgsOk s) : checkArguments s = .done s := by
  obtain ⟨hw, hh, hlen, hfit⟩ := h
  rw [checkArguments, if_neg hw, if_neg hh, if_neg (not_not.mpr hlen), if_neg (Nat.not_lt.mpr hfit)]

theorem checkArguments_of_not_argsOk (h : ¬ ArgsOk s) :
    checkArguments s = .raised .invalidArguments (failedCheck s) s := by
  unfold checkArguments failedCheck
  split
  · rfl
  next hw =>
  split
  · rfl
  next hh =>
  split
  · rfl
  next hlen =>
  refine if_pos (Nat.lt_of_not_le fun hfit => h ⟨hw, hh, not_not.mp hlen, hfit⟩)

theorem exec_chk_of_argsOk (h : ArgsOk s) : exec .chk s = .next (s.setUop .init) := by
  rw [exec_eq_finish (by decide), instrBody, checkArguments_of_argsOk h, finish_done, advance]

theorem exec_chk_of_not_argsOk (h : ¬ ArgsOk s) :
    exec .chk s = .next (enterError .chk .invalidArguments (failedCheck s) s) := by
  rw [exec_eq_finish (by decide), instrBody, checkArguments_of_not_argsOk h, finish_raised]

/-- ERR after CHK: CODE 1, the check that failed, STAGE 1, and no block (spec/60_exceptions.md R282, R288). -/
theorem errWord_of_chk (s : State) :
    errWord (errorCodeBits .invalidArguments) (failedCheck s) (stageCode .chk) 3 7 =
      if s.width = 0 then 0x001F0111
      else if s.height = 0 then 0x001F0121
      else if s.pixLen.toNat ≠ bytesNeeded s then 0x001F0131
      else 0x001F0141 := by
  unfold failedCheck
  split
  · rfl
  split
  · rfl
  split <;> rfl
end

/-! ### The obligations -/

/-- Settles O3: the next action is the CORE's where no other event is pending, and a pending write to CMD is the command that
its word encodes. -/
theorem stepRunsDecodedInstruction : Obligations.StepRunsDecodedInstruction := by
  refine ⟨fun s i hidle hbusy hdecode => ?_, fun s rest i hs hbusy hdecode => ?_, fun s rest w i hs hdecode => ?_⟩
  · rw [step_of_running (.inl hidle) (running_eq_some_iff.mpr ⟨hbusy, hdecode⟩), coreState_of_idle hidle]
  · have hcore : CoreMoves s := .inr (by rw [hs]; rfl)
    rw [step_of_running hcore (running_eq_some_iff.mpr ⟨hbusy, hdecode⟩), coreState, hs, List.tail_cons]
  · exact step_run ((nextAction_of_command hs).trans (commandAction_of_decode hdecode _))

/-- Settles O4: the CORE's action outside BUSY is to settle in the state that it finds. -/
theorem quiescentOutsideBusy : Obligations.QuiescentOutsideBusy := by
  refine fun s hbusy => ⟨fun hidle => ?_, fun rest hs => ?_⟩
  · rw [step_of_coreMoves_of_not_busy (.inl hidle) hbusy, coreState_of_idle hidle]
  · have hcore : CoreMoves s := .inr (by rw [hs]; rfl)
    rw [step_of_coreMoves_of_not_busy hcore hbusy, coreState, hs, List.tail_cons]

/-- Settles O5: a word from 2 on decodes to no command and START while BUSY is refused; of the instructions only START writes
BADCMD, and of the other events only RESET clears it. -/
theorem refusedCommandOnlySetsBadcmd : Obligations.RefusedCommandOnlySetsBadcmd := by
  refine ⟨fun s rest w hs hrefused => ?_, fun s t h hset hclear => reset_or_start_of_badcmd_cleared h hset hclear⟩
  rcases hrefused with hillegal | ⟨hone, hbusy⟩
  · exact step_settle ((nextAction_of_command hs).trans (commandAction_of_illegal hillegal _))
  · obtain rfl : w = 0x00000001 := BitVec.eq_of_toNat_eq hone
    rw [step_run ((nextAction_of_command hs).trans (commandAction_of_decode (decode_encode .start) _))]
    exact exec_start_of_busy (s := { s with sched := rest }) hbusy

/-- Settles O14: NOP is the identity. -/
theorem nopChangesNothing : Obligations.NopChangesNothing := ⟨decode_encode .nop, exec_nop⟩

/-- Settles O15: START is accepted or refused by STATE, and leaves the machine BUSY, where no output is visible. -/
theorem startBeginsAnEncode : Obligations.StartBeginsAnEncode :=
  ⟨decode_encode .start, fun _ => ⟨exec_start_of_not_busy, exec_start_of_busy, fun _ h =>
    output_hidden (by rw [phase_of_exec_start h]; decide)⟩⟩

/-- Settles O16: CHK completes exactly where all four conditions hold, and else reports the first that does not. -/
theorem chkValidatesTheArguments : Obligations.ChkValidatesTheArguments := by
  refine fun s => ⟨fun hw hh hlen hfit => exec_chk_of_argsOk ⟨hw, hh, hlen, hfit⟩, fun hinvalid => ?_⟩
  rw [exec_chk_of_not_argsOk hinvalid, ← bytesNeeded, ← errWord_of_chk]
  rfl

/-- Settles O17: INIT writes 0 to each of them, and SEQ then advances to QTGEN. -/
theorem initClearsTheEncodeState : Obligations.InitClearsTheEncodeState := by
  refine fun s => ⟨(initEncode s).setUop .qtgen, rfl, rfl, fun c => ?_⟩
  simp [initEncode]

/-- Settles O18: in DONE OUT_LEN is WP, and the host reads what OUTMEM holds below it. -/
theorem finCommitsTheOutput : Obligations.FinCommitsTheOutput := fun s =>
  ⟨commit s, rfl, rfl, rfl, fun _ ha hin => outReadValue_of_below (s := commit s) rfl ha hin⟩

end Sys2Proof.Machine
end

section
/-! The boundary function: what the host script of encodeJpeg makes of the machine, and why an encode of invalid arguments
ends in CHK (spec/30_encoding.md R113, R114, spec/40_driver.md R142). -/

namespace Sys2Proof.Machine

section
variable {s u : State} {e : Event} {es : List Event}

/-! ### Running a list of events -/

/-- The first event of a list, then the rest. -/
theorem runEvents_cons (h : step { s with sched := e :: es } = .next { u with sched := es }) :
    runEvents (e :: es) s = runEvents es { u with sched := s.sched } := by
  unfold runEvents
  rw [List.length_cons, run_succ h]

/-- An event that is settled at once, whatever is pending after it. -/
theorem runEvents_of_settle (h : eventAction e { s with sched := es } = .settle { u with sched := es }) :
    runEvents (e :: es) s = runEvents es { u with sched := s.sched } :=
  runEvents_cons (step_settle ((nextAction_of_pending (s := { s with sched := e :: es }) rfl).trans h))

theorem writeConfig_sched (s : State) (es : List Event) (off : BitVec 12) (v : Word) :
    writeConfig { s with sched := es } off v = { writeConfig s off v with sched := es } := by
  unfold writeConfig
  split_ifs <;> rfl

/-- `wr REG, value` for a register other than CMD, outside BUSY. -/
theorem runEvents_scriptWr {r : HostReg} (hr : r ≠ .cmd) (hbusy : s.phase ≠ .busy) (v : Word) (es : List Event) :
    runEvents (scriptWr r v ++ es) s = runEvents es { writeConfig s (regOffset r) v with sched := s.sched } := by
  have hoff : regOffset r ≠ regOffset .cmd := regOffset_ne_zero hr
  refine runEvents_of_settle (e := .regWrite (regOffset r) v) (es := es) ?_
  rw [eventAction, if_neg hoff, hostRegWrite_of_not_busy (s := { s with sched := es }) hbusy,
    writeConfig_sched]

/-- `pix addr, b0 b1 ... bn` writes PIXMEM and nothing else. -/
theorem runEvents_scriptPix (addr : Nat) (bs : List Byte) (es : List Event) (s : State) :
    ∃ m, runEvents (scriptPix addr bs ++ es) s = runEvents es { s with pixmem := m } := by
  induction bs generalizing addr s with
  | nil => exact ⟨s.pixmem, rfl⟩
  | cons b bs ih =>
    have hwrite : hostPixWrite addr b { s with sched := scriptPix (addr + 1) bs ++ es } =
        { s with pixmem := (hostPixWrite addr b s).pixmem, sched := scriptPix (addr + 1) bs ++ es } := by
      unfold hostPixWrite hostMayWrite
      dsimp only
      split <;> rfl
    obtain ⟨m, hm⟩ := ih (addr + 1) { s with pixmem := (hostPixWrite addr b s).pixmem }
    exact ⟨m, (runEvents_of_settle (e := .pixWrite addr b) (u := { s with pixmem := (hostPixWrite addr b s).pixmem })
      (congrArg Action.settle hwrite)).trans hm⟩

/-- `cmd START`, outside BUSY. -/
theorem runEvents_scriptStart (hbusy : s.phase ≠ .busy) : runEvents scriptStart s = .next (acceptStart s) := by
  have hpending : ({ s with sched := scriptStart } : State).sched = .regWrite 0x00 0x00000001 :: [] := rfl
  have hstep : step { s with sched := scriptStart } = .next (acceptStart { s with sched := [] }) := by
    rw [step_run ((nextAction_of_command hpending).trans (commandAction_of_decode (decode_encode .start) _))]
    exact exec_start_of_not_busy (s := { s with sched := [] }) hbusy
  exact runEvents_cons (u := acceptStart s) hstep

/-! ### The script up to START (spec/40_driver.md R142) -/

/-- The machine with the arguments of encodeJpeg in its registers and the given PIXMEM. -/
def loadArguments (width height length : Nat) (quality : Option Rat) (m : Memory) (s : State) : State :=
  { s with
    width := (BitVec.ofNat 32 width).setWidth 16
    height := (BitVec.ofNat 32 height).setWidth 16
    quality := (BitVec.ofNat 32 (qualityInt quality)).setWidth 8
    pixLen := BitVec.ofNat 32 length
    pixmem := m }

theorem runEvents_encodeScript (width height : Nat) (rgba : List Byte) (quality : Option Rat) (hbusy : s.phase ≠ .busy) :
    ∃ m, runEvents (encodeScript width height rgba quality s.params) s =
      .next (acceptStart (loadArguments width height rgba.length quality m s)) := by
  simp only [encodeScript, List.append_assoc]
  iterate 4 rw [runEvents_scriptWr (by decide) (by exact hbusy)]
  obtain ⟨m, hm⟩ := runEvents_scriptPix 0 (rgba.take s.params.pixBytes) scriptStart
    (loadArguments width height rgba.length quality s.pixmem s)
  exact ⟨m, hm.trans (runEvents_scriptStart hbusy)⟩

theorem not_argsOk_loadArguments {width height length : Nat} (quality : Option Rat) (m : Memory) (hw : width ≤ 65535)
    (hh : height ≤ 65535) (hl : length < 2 ^ 32) (h : width = 0 ∨ height = 0 ∨ length ≠ width * height * 4) :
    ¬ ArgsOk (loadArguments width height length quality m s) := by
  have hwidth : ((BitVec.ofNat 32 width).setWidth 16).toNat = width := by
    rw [BitVec.toNat_setWidth, BitVec.toNat_ofNat]
    omega
  have hheight : ((BitVec.ofNat 32 height).setWidth 16).toNat = height := by
    rw [BitVec.toNat_setWidth, BitVec.toNat_ofNat]
    omega
  have hlength : (BitVec.ofNat 32 length).toNat = length := by
    rw [BitVec.toNat_ofNat, Nat.mod_eq_of_lt hl]
  simp only [ArgsOk, loadArguments, bytesNeeded, hwidth, hheight, hlength]
  rintro ⟨hw0, hh0, hbytes, -⟩
  rcases h with rfl | rfl | hne
  · exact hw0 rfl
  · exact hh0 rfl
  · exact hne hbytes

/-! ### Waiting for the result (spec/30_encoding.md R114) -/

/-- `s` after one read of STATUS. -/
def afterStatus (s : State) : State := returnToHost (.word (regValue s (regOffset .status))) s

theorem runEvents_status (s : State) : runEvents (scriptRd .status) s = .next (afterStatus s) :=
  runEvents_of_settle (u := afterStatus s) rfl

theorem scriptWait_of_not_busy (n : Nat) (hbusy : s.phase ≠ .busy) : scriptWait (n + 1) s = .next (afterStatus s) := by
  have hafter : (afterStatus s).phase ≠ .busy := hbusy
  simp only [scriptWait, runEvents_status, if_neg hafter]

theorem scriptWait_of_core (n : Nat) (hbusy : s.phase = .busy) (hcore : runEvents [.core] (afterStatus s) = .next u) :
    scriptWait (n + 1) s = scriptWait n u := by
  have hafter : (afterStatus s).phase = .busy := hbusy
  simp only [scriptWait, runEvents_status, if_pos hafter, hcore]

/-- The CORE's step at CHK, on invalid arguments. -/
theorem runEvents_core_of_chk (hi : running s = some .chk) (hargs : ¬ ArgsOk s) :
    runEvents [.core] s = .next (enterError .chk .invalidArguments (failedCheck s) s) := by
  have hstep : step { s with sched := [.core] } =
      .next (enterError .chk .invalidArguments (failedCheck s) { s with sched := [] }) :=
    (step_of_running (s := { s with sched := [.core] }) (.inr rfl) hi).trans
      (exec_chk_of_not_argsOk (s := { s with sched := [] }) hargs)
  exact runEvents_cons (u := enterError .chk .invalidArguments (failedCheck s) s) hstep

/-- `wait` is given enough turns for a first micro-operation and the read of STATUS after it. -/
theorem encodeSteps_add_one (s : State) : ∃ n, encodeSteps s + 1 = n + 2 :=
  ⟨15 + 37 * (mcuW s * mcuH s), by rw [encodeSteps]; omega⟩

/-- An encode of invalid arguments is over after its first micro-operation. -/
theorem scriptWait_of_invalid (n : Nat) (hi : running s = some .chk) (hargs : ¬ ArgsOk s) :
    scriptWait (n + 2) s = .next (afterStatus (enterError .chk .invalidArguments (failedCheck s) (afterStatus s))) := by
  obtain ⟨hbusy, -⟩ := running_eq_some_iff.mp hi
  rw [scriptWait_of_core (n + 1) hbusy (runEvents_core_of_chk (s := afterStatus s) hi hargs)]
  exact scriptWait_of_not_busy n (by simp)

/-! ### The result (spec/40_driver.md R142) -/

theorem collectResult_of_invalidArguments (hphase : s.phase = .error)
    (hcode : s.err.extractLsb' 0 4 = errorCodeBits .invalidArguments) :
    collectResult s = .error .invalidArguments := by
  have hreg : regValue s (regOffset .err) = s.err := rfl
  simp only [collectResult, hphase, hreg, hcode, if_true]

end

/-- Settles O60: arguments out of the registers' ranges are refused at once, and on the others CHK is the only
micro-operation that runs. -/
theorem boundaryRejectsInvalidArguments : Obligations.BoundaryRejectsInvalidArguments := by
  intro width height rgba quality s hbusy hinvalid
  unfold encodeJpeg
  rw [if_neg hbusy]
  split
  · rfl
  next hrange =>
  obtain ⟨m, hscript⟩ := runEvents_encodeScript width height rgba quality hbusy
  have hargs : ¬ ArgsOk (acceptStart (loadArguments width height rgba.length quality m s)) :=
    not_argsOk_loadArguments (s := s) quality m (by omega) (by omega) (by omega) hinvalid
  obtain ⟨n, hsteps⟩ := encodeSteps_add_one (acceptStart (loadArguments width height rgba.length quality m s))
  simp only [hscript, hsteps, scriptWait_of_invalid n rfl hargs]
  exact collectResult_of_invalidArguments rfl (enterError_code ..)

end Sys2Proof.Machine
end
